-- ==== Sys2Proof/Word.lean ====
section
/-! DEFINITION. The word types of HUFFCORE (00_scope.md R8, R9; 30_encoding.md R90). -/

namespace Sys2Proof

/-- A symbol, and the unit of both streams: one byte (R8 `SYM_W`; 20_memory.md R72). -/
abbrev Byte := BitVec 8

/-- A frequency (R9 `FREQ_W`) and a host-readable register (R9 `REG_W`). -/
abbrev Word32 := BitVec 32

/-- A child index of a node: 16 bits, signed, two's complement (R8 `IDX_W`, R10). -/
abbrev ChildIdx := BitVec 16

/-- An index into the working-tree array as the queue and `root` hold it: 10 bits
(10_state.md R23, R28). -/
abbrev NodeIdx := BitVec 10

/-- A command word (R9 `CMD_W`, R90). -/
abbrev CmdWord := BitVec 64

end Sys2Proof
end

