-- ==== Sys2Proof/Config.lean ====
section
/-! DEFINITION. The parameters of 00_scope.md R8 and R9, and the opaque free values. -/

namespace Sys2Proof.Config

/-- Number of possible symbols (R8 `NSYM`). -/
abbrev nsym : Nat := 256
/-- Most bits in one code; size of the path store (R8 `MAX_CODE_LEN`). -/
abbrev maxCodeLen : Nat := 255
/-- Entries of the code generator's explicit stack (R8 `STACK_DEPTH`). -/
abbrev stackDepth : Nat := 256
/-- Smallest `total_chars` the reader accepts (R8 `MIN_TOTAL_CHARS`). -/
abbrev minTotalChars : Nat := 2
/-- Smallest `tree_size` the reader accepts (R8 `MIN_TREE_SIZE`). -/
abbrev minTreeSize : Nat := 2
/-- Bytes of one serialized node record (R8 `REC_BYTES`). -/
abbrev recBytes : Nat := 5
/-- Bytes of the header (R8 `HDR_BYTES`). -/
abbrev hdrBytes : Nat := 6
/-- The sentinel index -1, "no child" (R8 `NOCHILD`), as 16-bit two's complement (R10). -/
abbrev noChild : ChildIdx := 0xFFFF#16
/-- Most input bytes one compress operation accepts (R9 `MAX_INPUT`). -/
abbrev maxInput : Nat := 4294967295
/-- One more than the largest frequency (R9 `FREQ_W` = 32). -/
abbrev freqBound : Nat := 4294967296
/-- Most nodes of a well-formed tree; entries of `ftree` (R9 `MAX_NODES`). -/
abbrev maxNodes : Nat := 511
/-- Entries of the working-tree array's storage (R9 `ARENA_DEPTH`). -/
abbrev arenaDepth : Nat := 512
/-- Entries of the heap's storage; bound of `pq_cap` (R9 `HEAP_DEPTH`). -/
abbrev heapDepth : Nat := 256
/-- Symbol byte written for an internal node (R9 `INTERNAL_SYM`). -/
abbrev internalSym : Byte := 0x00#8

/-- FREE VALUE (log 6): the symbol byte of an `ftree` entry that 10_state.md R43 leaves
unspecified; applied to the free-value counter and the entry's index. -/
opaque freeFinalSym : Nat → Nat → Byte
/-- FREE VALUE (log 6): the left index of such an entry. -/
opaque freeFinalLeft : Nat → Nat → ChildIdx
/-- FREE VALUE (log 6): the right index of such an entry. -/
opaque freeFinalRight : Nat → Nat → ChildIdx

end Sys2Proof.Config
end

