-- ==== Sys2Proof/Syntax.lean ====
section
/-! DEFINITION. The commands of 30_encoding.md R92 and the fields of a command word (R90). -/

namespace Sys2Proof

/-- One constructor per row of spec/opcode_table.json, with the operands R92 says it uses:
`arg0` is 16 bits, `arg1` 32 bits, both unsigned (R91). -/
inductive Instr where
  /-- `COMPRESS`, 46_top_level.md R230. -/
  | compress
  /-- `DECOMPRESS`, 46_top_level.md R233. -/
  | decompress
  /-- `FT_COUNT`, 40_frequency_table.md R130. -/
  | ftCount
  /-- `PQ_INIT cap`, 41_priority_queue.md R141. -/
  | pqInit (cap : BitVec 16)
  /-- `PQ_INSERT idx, freq`, 41_priority_queue.md R144. -/
  | pqInsert (idx : BitVec 16) (freq : Word32)
  /-- `PQ_EXTRACT2`, 41_priority_queue.md R147. -/
  | pqExtract2
  /-- `TB_LEAVES`, 42_tree_builder.md R161. -/
  | tbLeaves
  /-- `TB_BUILD`, 42_tree_builder.md R165. -/
  | tbBuild
  /-- `CG_GEN`, 43_code_generator.md R181. -/
  | cgGen
  /-- `BP_PACK`, 44_bit_packer_unpacker.md R191. -/
  | bpPack
  /-- `BU_UNPACK`, 44_bit_packer_unpacker.md R196. -/
  | buUnpack
  /-- `SER_WRITE`, 45_serializer.md R211. -/
  | serWrite
  /-- `SER_READ`, 45_serializer.md R216. -/
  | serRead
  /-- `RELEASE`, 46_top_level.md R236. -/
  | release
deriving DecidableEq, Repr

/-- The four fields of a command word in the one format `C64` (R90). -/
structure Fields where
  /-- bits 63:56 -/
  opcode : BitVec 8
  /-- bits 55:48 -/
  rsvd : BitVec 8
  /-- bits 47:32 -/
  arg0 : BitVec 16
  /-- bits 31:0 -/
  arg1 : BitVec 32
deriving DecidableEq, Repr

end Sys2Proof
end

