-- ==== Sys2Proof/Machine/State.lean ====
section
/-! DEFINITION. The state of HUFFCORE (10_state.md, 20_memory.md R61, R64), the result codes
(30_encoding.md R95), what the host may do (20_memory.md R67, 60_exceptions.md R264), and the
three outcomes' reasons. -/

namespace Sys2Proof.Machine

/-- The ten error kinds, in the order of their numbers 1 to 10 (R95). -/
inductive ErrorKind where
  | invalidParameter
  | memoryAllocationFailure
  | invalidResource
  | invalidArguments
  | fileAccessFailure
  | unexpectedEndOfInput
  | queueNotInitialized
  | queueSizeExceeded
  | unknownOption
  /-- In the source's list; no rule raises it (60_exceptions.md R253, 93 U3). -/
  | unknownError
deriving DecidableEq, Repr

/-- A result code: success or one error kind; eleven values (R95, 93 U4). -/
inductive ResultCode where
  | ok
  | error (k : ErrorKind)
deriving DecidableEq, Repr

/-- Why the model stops with a fault. No run from reset reaches either (Safety.lean, `State.Inv`). -/
inductive Fault where
  /-- An index outside the live entries of `arena` was formed. Raised by `TB_LEAVES` and `CG_GEN`
  in states no run reaches; 20_memory.md R69 says no rule forms such an index. Safe: the model
  stops (log 10). -/
  | indexOutsideArray
  /-- A loop's bound was used up before the loop ended. Raised by no state: every bound is larger
  than the number of passes (46_top_level.md R242). Safe: the model stops (log 11). -/
  | loopUnfinished
deriving DecidableEq, Repr

/-- Why the model refuses. -/
inductive Refusal where
  /-- The instruction has no meaning in the model yet. Raised by `exec`'s refused arms only, of
  which there are none. Safe: the model stops. -/
  | notModelled (mnemonic : String)
deriving DecidableEq, Repr

/-- A heap entry: "index into the working tree array" and "cached frequency" (R28). -/
structure HeapEntry where
  idx : NodeIdx
  freq : Word32
deriving DecidableEq, Repr

/-- The constructed priority queue: `pq_cap` and the live entries `pq[0..pq_size-1]` (R28). -/
structure Queue where
  cap : BitVec 9
  entries : List HeapEntry
deriving DecidableEq, Repr

/-- A working-tree node (R30); `visited` is R26. -/
structure WorkNode where
  freq : Word32
  sym : Byte
  left : ChildIdx
  right : ChildIdx
  visited : Bool
deriving DecidableEq, Repr

/-- The working tree: the nodes `arena[0..arena_len-1]` and `arena_cap` (R30, R31). -/
structure Arena where
  nodes : List WorkNode
  cap : BitVec 10
deriving DecidableEq, Repr

/-- A final-tree node (R36). -/
structure FinalNode where
  sym : Byte
  left : ChildIdx
  right : ChildIdx
deriving DecidableEq, Repr

/-- The frequency table: 256 counters (R27). -/
abbrev FreqTable := Vector Word32 256

/-- The code table: per byte value the bits of its code, first step from the root first; the empty
list is `len = 0`, "no code" (R35). -/
abbrev CodeTable := Vector (List Bool) 256

/-- What the host may do between two commands (20_memory.md R67, 60_exceptions.md R264). -/
inductive HostAction where
  /-- Issue one command word. -/
  | command (w : CmdWord)
  /-- `HostBindSource(bytes, fail_at)`. -/
  | bindSource (bytes : List Byte) (failAt : Option Nat)
  /-- `HostBindSink(fail_at)`. -/
  | bindSink (failAt : Option Nat)
  /-- `HostUnbind()`. -/
  | unbind
  /-- `HostReadSink()`. -/
  | readSink
  /-- Read host register number `n` (10_state.md R45). -/
  | readReg (n : Nat)
  /-- Assert reset (70_reset_and_hazards.md R290). -/
  | reset
deriving DecidableEq, Repr

/-- What the host got back from its last action (R264, "host gets back"; log 3). -/
inductive HostReply where
  | nothing
  | result (r : ResultCode)
  | regValue (v : Word32)
  | sinkBytes (bytes : List Byte)
deriving DecidableEq, Repr

/-- The state. A structure whose validity flag is 0 has no content (10_state.md R43, 93 U1), so
`ft`, `arena`, `pq`, `code` and `ftree` are options and their flags of R25 are "is some" (log 4). -/
structure State where
  /-- R23: result code of the last completed command. -/
  result : ResultCode
  /-- R23: a command has completed since reset. -/
  done : Bool
  /-- R23 -/
  totalChars : BitVec 32
  /-- R23 -/
  treeSize : BitVec 16
  /-- R23 -/
  nDistinct : BitVec 9
  /-- R23 -/
  root : NodeIdx
  /-- R24 -/
  ex0Idx : NodeIdx
  /-- R24 -/
  ex0Freq : Word32
  /-- R24 -/
  ex1Idx : NodeIdx
  /-- R24 -/
  ex1Freq : Word32
  /-- R27, with `ft_valid` of R25. -/
  ft : Option FreqTable
  /-- R30, R31, with `arena_valid` of R25. -/
  arena : Option Arena
  /-- R28, with `pq_init` of R25. -/
  pq : Option Queue
  /-- `root_valid` of R25. -/
  rootValid : Bool
  /-- R35, with `code_valid` of R25. -/
  code : Option CodeTable
  /-- R36, with `ftree_valid` of R25: the entries the last `SER_READ` loaded. -/
  ftree : Option (List FinalNode)
  /-- 20_memory.md R61 -/
  srcBound : Bool
  /-- 20_memory.md R61 -/
  src : List Byte
  /-- 20_memory.md R61 -/
  srcFailAt : Option Nat
  /-- 20_memory.md R61, 10_state.md R41 -/
  srcPos : Nat
  /-- 20_memory.md R64 -/
  snkBound : Bool
  /-- 20_memory.md R64: the bytes written so far, oldest first. -/
  snk : List Byte
  /-- 20_memory.md R64 -/
  snkFailAt : Option Nat
  /-- The model's own (log 1): the host's actions still to come, head first. -/
  hostq : List HostAction
  /-- The model's own (log 3): what the host last got back. -/
  reply : HostReply
  /-- The model's own (log 6): the counter the free values are applied to. -/
  freeCtr : Nat
deriving DecidableEq, Repr

/-- The state after reset (10_state.md R47; logs 1, 3, 6, 7 for the fields R47 does not name). -/
def State.reset : State where
  result := .ok
  done := false
  totalChars := 0
  treeSize := 0
  nDistinct := 0
  root := 0
  ex0Idx := 0
  ex0Freq := 0
  ex1Idx := 0
  ex1Freq := 0
  ft := none
  arena := none
  pq := none
  rootValid := false
  code := none
  ftree := none
  srcBound := false
  src := []
  srcFailAt := none
  srcPos := 0
  snkBound := false
  snk := []
  snkFailAt := none
  hostq := []
  reply := .nothing
  freeCtr := 0

/-- Where a piece of pseudocode stands (00_scope.md R10): it went on with a value, it met a
`raise k`, or the model is stuck. The state is the one at that moment. -/
inductive Res (α : Type) where
  | ok (a : α) (s : State)
  | raised (k : ErrorKind) (s : State)
  | stuck (f : Fault)
deriving DecidableEq, Repr

/-- What `SrcNext` returns (20_memory.md R63). -/
inductive SrcRead where
  | byte (b : Byte) (s : State)
  | eof
  | err
deriving DecidableEq, Repr

/-- The outcome of one step or one command. -/
abbrev Out := Host.Outcome State Fault Refusal

end Sys2Proof.Machine
end

