-- ==== Sys2Proof/WellFormed.lean ====
section
/-! DEFINITION. Which command words are legal (30_encoding.md R93, R94), twice: by the fields, as
R94 words it, and by the match and mask pairs of spec/opcode_table.json. Every `Instr` is well
formed by its type: R91 gives each operand exactly the width its constructor has. -/

namespace Sys2Proof

/-- The fourteen assigned opcodes (R92, R94). -/
def assignedOpcodes : List (BitVec 8) :=
  [0x01#8, 0x02#8, 0x10#8, 0x20#8, 0x21#8, 0x22#8, 0x30#8, 0x31#8, 0x40#8, 0x50#8, 0x51#8,
   0x60#8, 0x61#8, 0xF0#8]

/-- The opcodes of the commands that use `arg0` (R92). -/
def opcodesUsingArg0 : List (BitVec 8) := [0x20#8, 0x21#8]

/-- The opcodes of the commands that use `arg1` (R92). -/
def opcodesUsingArg1 : List (BitVec 8) := [0x21#8]

/-- R94: the opcode is assigned, `rsvd` is 0, and every operand the command does not use is 0. -/
def Fields.wf (f : Fields) : Bool :=
  assignedOpcodes.contains f.opcode && f.rsvd == 0#8
    && (opcodesUsingArg0.contains f.opcode || f.arg0 == 0#16)
    && (opcodesUsingArg1.contains f.opcode || f.arg1 == 0#32)

/-- The `match` and `mask` columns of spec/opcode_table.json, in the table's order. -/
def legalRows : List (CmdWord × CmdWord) :=
  [(0x0100000000000000#64, 0xFFFFFFFFFFFFFFFF#64),
   (0x0200000000000000#64, 0xFFFFFFFFFFFFFFFF#64),
   (0x1000000000000000#64, 0xFFFFFFFFFFFFFFFF#64),
   (0x2000000000000000#64, 0xFFFF0000FFFFFFFF#64),
   (0x2100000000000000#64, 0xFFFF000000000000#64),
   (0x2200000000000000#64, 0xFFFFFFFFFFFFFFFF#64),
   (0x3000000000000000#64, 0xFFFFFFFFFFFFFFFF#64)] ++
  [(0x3100000000000000#64, 0xFFFFFFFFFFFFFFFF#64),
   (0x4000000000000000#64, 0xFFFFFFFFFFFFFFFF#64),
   (0x5000000000000000#64, 0xFFFFFFFFFFFFFFFF#64),
   (0x5100000000000000#64, 0xFFFFFFFFFFFFFFFF#64),
   (0x6000000000000000#64, 0xFFFFFFFFFFFFFFFF#64),
   (0x6100000000000000#64, 0xFFFFFFFFFFFFFFFF#64),
   (0xF000000000000000#64, 0xFFFFFFFFFFFFFFFF#64)]

/-- A legal command word: some row's `match` under its `mask` (30_encoding.md, opening text). -/
def wordLegal (w : CmdWord) : Bool :=
  legalRows.any fun r => w &&& r.2 == r.1

end Sys2Proof
end

