-- ==== Sys2Proof/Decode.lean ====
section
/-! DEFINITION. Decoding a command word (30_encoding.md R93) and encoding a command (R97). -/

namespace Sys2Proof

open Machine (ErrorKind)

/-- What decoding gives: a command, or one of the two error kinds of R93. -/
inductive Decoded where
  | ok (i : Instr)
  | reject (k : ErrorKind)
deriving DecidableEq, Repr

/-- A row of the command table of R92: the opcode, the operands the command uses, and the command. -/
structure CommandRow where
  opcode : BitVec 8
  usesArg0 : Bool
  usesArg1 : Bool
  build : BitVec 16 → BitVec 32 → Instr

/-- R90: the bits of each field of a command word. -/
def fieldsOf (w : CmdWord) : Fields :=
  { opcode := w.extractLsb' 56 8, rsvd := w.extractLsb' 48 8,
    arg0 := w.extractLsb' 32 16, arg1 := w.extractLsb' 0 32 }

/-- R92, in its order. -/
def commandTable : List CommandRow :=
  [⟨0x01#8, false, false, fun _ _ => .compress⟩,
   ⟨0x02#8, false, false, fun _ _ => .decompress⟩,
   ⟨0x10#8, false, false, fun _ _ => .ftCount⟩,
   ⟨0x20#8, true, false, fun a _ => .pqInit a⟩,
   ⟨0x21#8, true, true, fun a b => .pqInsert a b⟩,
   ⟨0x22#8, false, false, fun _ _ => .pqExtract2⟩,
   ⟨0x30#8, false, false, fun _ _ => .tbLeaves⟩] ++
  [⟨0x31#8, false, false, fun _ _ => .tbBuild⟩,
   ⟨0x40#8, false, false, fun _ _ => .cgGen⟩,
   ⟨0x50#8, false, false, fun _ _ => .bpPack⟩,
   ⟨0x51#8, false, false, fun _ _ => .buUnpack⟩,
   ⟨0x60#8, false, false, fun _ _ => .serWrite⟩,
   ⟨0x61#8, false, false, fun _ _ => .serRead⟩,
   ⟨0xF0#8, false, false, fun _ _ => .release⟩]

/-- R93 on the fields: opcode, then `rsvd`, then an unused `arg0`, then an unused `arg1`. -/
def decodeFields (f : Fields) : Decoded :=
  match commandTable.find? (fun r => r.opcode == f.opcode) with
  | none => .reject .unknownOption
  | some r =>
    if f.rsvd ≠ 0#8 then .reject .invalidParameter
    else if r.usesArg0 = false ∧ f.arg0 ≠ 0#16 then .reject .invalidParameter
    else if r.usesArg1 = false ∧ f.arg1 ≠ 0#32 then .reject .invalidParameter
    else .ok (r.build f.arg0 f.arg1)

/-- R93: total on every 64-bit word. -/
def decode (w : CmdWord) : Decoded :=
  decodeFields (fieldsOf w)

/-- R97: the fields of a command's word, unused operands 0. -/
def encodeFields : Instr → Fields
  | .compress => ⟨0x01#8, 0#8, 0#16, 0#32⟩
  | .decompress => ⟨0x02#8, 0#8, 0#16, 0#32⟩
  | .ftCount => ⟨0x10#8, 0#8, 0#16, 0#32⟩
  | .pqInit cap => ⟨0x20#8, 0#8, cap, 0#32⟩
  | .pqInsert idx freq => ⟨0x21#8, 0#8, idx, freq⟩
  | .pqExtract2 => ⟨0x22#8, 0#8, 0#16, 0#32⟩
  | .tbLeaves => ⟨0x30#8, 0#8, 0#16, 0#32⟩
  | .tbBuild => ⟨0x31#8, 0#8, 0#16, 0#32⟩
  | .cgGen => ⟨0x40#8, 0#8, 0#16, 0#32⟩
  | .bpPack => ⟨0x50#8, 0#8, 0#16, 0#32⟩
  | .buUnpack => ⟨0x51#8, 0#8, 0#16, 0#32⟩
  | .serWrite => ⟨0x60#8, 0#8, 0#16, 0#32⟩
  | .serRead => ⟨0x61#8, 0#8, 0#16, 0#32⟩
  | .release => ⟨0xF0#8, 0#8, 0#16, 0#32⟩

/-- R90: the word with the given fields, `opcode` highest. -/
def packFields (f : Fields) : CmdWord :=
  f.opcode ++ f.rsvd ++ f.arg0 ++ f.arg1

/-- R97: the word of a command. -/
def encode (i : Instr) : CmdWord :=
  packFields (encodeFields i)

/-- The command word whose low `nbits` bits are `w`'s and whose other bits are 0. A command is one
64-bit word (R90), presented whole by the host: it has no byte order. -/
def tableWord (nbits w : Nat) : CmdWord :=
  BitVec.ofNat 64 (w % 2 ^ nbits)

/-- The command the decoder reads from a command word numbered as spec/opcode_table.json numbers
it. No command is longer than 64 bits (R90). -/
def decodeTableWord (nbits w : Nat) : Option Instr :=
  if nbits ≤ 64 then
    match decode (tableWord nbits w) with
    | .ok i => some i
    | .reject _ => none
  else none

end Sys2Proof
end

