-- ==== Sys2Proof/Machine/Ops.lean ====
section
/-! DEFINITION. The shared operations: sequencing with `raise`, the stream primitives of
20_memory.md R62 to R66, release, the failure entry and successful completion (60_exceptions.md
R257, R258), byte order (20_memory.md R70), and taking the host's next action. -/

namespace Sys2Proof.Machine

/-- Sequential pseudocode (00_scope.md R10, R11): nothing after a `raise` runs. -/
def Res.bind {α β : Type} (m : Res α) (f : α → State → Res β) : Res β :=
  match m with
  | .ok a s => f a s
  | .raised k s => .raised k s
  | .stuck r => .stuck r

/-- One piece of pseudocode after another, no value passed. -/
def Res.andThen (m : Res Unit) (f : State → Res Unit) : Res Unit :=
  m.bind fun _ s => f s

/-- 20_memory.md R61, R64: does a failure point make the access at position `p` fail? -/
def failsAt (failAt : Option Nat) (p : Nat) : Bool :=
  match failAt with
  | none => false
  | some f => decide (f ≤ p)

/-- R62 -/
def srcRewind (s : State) : State :=
  { s with srcPos := 0 }

/-- R63 -/
def srcNext (s : State) : SrcRead :=
  if s.srcBound = false then .err
  else if failsAt s.srcFailAt s.srcPos = true then .err
  else
    match s.src[s.srcPos]? with
    | none => .eof
    | some b => .byte b { s with srcPos := s.srcPos + 1 }

/-- R65 -/
def snkPut (b : Byte) (s : State) : Res Unit :=
  if s.snkBound = false then .raised .fileAccessFailure s
  else if failsAt s.snkFailAt s.snk.length = true then .raised .fileAccessFailure s
  else .ok () { s with snk := s.snk ++ [b] }

/-- R65 for each byte in turn, stopping at the first failure. -/
def snkPutAll : List Byte → State → Res Unit
  | [], s => .ok () s
  | b :: bs, s => (snkPut b s).andThen (snkPutAll bs)

/-- R66 -/
def snkTruncate (s : State) : State :=
  if s.snkBound = true then { s with snk := [] } else s

/-- 10_state.md R42: the six validity flags to 0, and with five of them their structures. -/
def releaseAll (s : State) : State :=
  { s with ft := none, arena := none, pq := none, rootValid := false, code := none, ftree := none }

/-- 60_exceptions.md R257: what `raise k` does, for every kind, command and decode failure. There
is no return from a failure: the block is ready for the next command (R260). -/
def failureEntry (k : ErrorKind) (s : State) : State :=
  { snkTruncate (releaseAll s) with result := .error k, done := true }

/-- 60_exceptions.md R258 -/
def complete (s : State) : State :=
  { s with result := .ok, done := true }

/-- The end of a command: completion or failure entry, both a next state. -/
def finish (r : Res Unit) : Out :=
  match r with
  | .ok _ s => .next (complete s)
  | .raised k s => .next (failureEntry k s)
  | .stuck f => .fault f

/-- `LE16` of 00_scope.md R10: the low byte first. -/
def le16 (v : BitVec 16) : List Byte :=
  [v.extractLsb' 0 8, v.extractLsb' 8 8]

/-- `LE32` of 00_scope.md R10. -/
def le32 (v : BitVec 32) : List Byte :=
  [v.extractLsb' 0 8, v.extractLsb' 8 8, v.extractLsb' 16 8, v.extractLsb' 24 8]

/-- `GetLE(n)` of 45_serializer.md R216: `n` bytes of the source, least significant first. -/
def getLE : Nat → State → Res Nat
  | 0, s => .ok 0 s
  | n + 1, s =>
    match srcNext s with
    | .err => .raised .fileAccessFailure s
    | .eof => .raised .unexpectedEndOfInput s
    | .byte b s =>
      (getLE n s).bind fun v s => .ok (b.toNat + 256 * v) s

/-- The eight bits of a byte, most significant first (20_memory.md R71). -/
def bitsMsbFirst (b : Byte) : List Bool :=
  [b.getLsbD 7, b.getLsbD 6, b.getLsbD 5, b.getLsbD 4, b.getLsbD 3, b.getLsbD 2, b.getLsbD 1,
   b.getLsbD 0]

/-- Take the host's action at the head of the queue (log 1); the free-value counter advances
(log 6). -/
def popAction (s : State) : Option (HostAction × State) :=
  match s.hostq with
  | [] => none
  | a :: rest => some (a, { s with hostq := rest, freeCtr := s.freeCtr + 1 })

/-- Put a command word where the next step takes its action from. -/
def pushCommand (w : CmdWord) (s : State) : State :=
  { s with hostq := .command w :: s.hostq }

/-- The result code a command returns to the host (30_encoding.md R95, 60_exceptions.md R264). -/
def returnResult (o : Out) : Out :=
  match o with
  | .next s => .next { s with reply := .result s.result }
  | .fault f => .fault f
  | .refused r => .refused r

end Sys2Proof.Machine
end

