-- ==== Sys2Proof/Machine/Operands.lean ====
section
/-! DEFINITION. The forms an operand or index takes: the two operands of the queue commands
(41_priority_queue.md R141, R144), tables indexed by a byte value (10_state.md R27, R35), and the
child indices of nodes (10_state.md R30, R36). -/

namespace Sys2Proof.Machine

/-- `PQ_INIT`'s operand (R141): a capacity from 1 to `HEAP_DEPTH`, else nothing. -/
def capOperand (cap : BitVec 16) : Option (BitVec 9) :=
  if cap.toNat = 0 ∨ cap.toNat > Config.heapDepth then none else some (cap.setWidth 9)

/-- `PQ_INSERT`'s index operand (R144): an `arena` index, at most `ARENA_DEPTH - 1`, else nothing. -/
def idxOperand (idx : BitVec 16) : Option NodeIdx :=
  if idx.toNat > Config.arenaDepth - 1 then none else some (idx.setWidth 10)

/-- Entry `b` of a table with one entry per byte value. -/
def tableGet {α : Type} (t : Vector α 256) (b : Byte) : α :=
  t[b.toNat]'b.isLt

/-- The table with entry `b` replaced. -/
def tableSet {α : Type} (t : Vector α 256) (b : Byte) (v : α) : Vector α 256 :=
  t.set b.toNat v b.isLt

/-- An `arena` index as a child field holds it (10 bits into 16, R30). -/
def childOf (i : NodeIdx) : ChildIdx :=
  i.setWidth 16

/-- A leaf: "both children set to the 'no child' sentinel" (00_scope.md R12). -/
def WorkNode.isLeaf (n : WorkNode) : Bool :=
  n.left == Config.noChild && n.right == Config.noChild

/-- A leaf of the final tree (00_scope.md R12). -/
def FinalNode.isLeaf (n : FinalNode) : Bool :=
  n.left == Config.noChild && n.right == Config.noChild

/-- 45_serializer.md R219: a child index is -1 or in `0..tree_size-1`, read as a signed number. -/
def childInRange (treeSize : Nat) (c : ChildIdx) : Bool :=
  c.toInt == -1 || (decide (0 ≤ c.toInt) && decide (c.toInt < (treeSize : Int)))

end Sys2Proof.Machine
end

