-- ==== Sys2Proof/Machine/Flags.lean ====
section
/-! DEFINITION. The six validity flags (10_state.md R25), the lengths behind them, the result's
number (30_encoding.md R95), and `STATUS` (10_state.md R46). -/

namespace Sys2Proof.Machine

/-- The number of an error kind (R95). -/
def ErrorKind.code : ErrorKind → BitVec 8
  | .invalidParameter => 1
  | .memoryAllocationFailure => 2
  | .invalidResource => 3
  | .invalidArguments => 4
  | .fileAccessFailure => 5
  | .unexpectedEndOfInput => 6
  | .queueNotInitialized => 7
  | .queueSizeExceeded => 8
  | .unknownOption => 9
  | .unknownError => 10

/-- The number of a result code (R95). -/
def ResultCode.code : ResultCode → BitVec 8
  | .ok => 0
  | .error k => k.code

/-- `ft_valid` -/
def ftValid (s : State) : Bool := s.ft.isSome
/-- `arena_valid` -/
def arenaValid (s : State) : Bool := s.arena.isSome
/-- `pq_init` -/
def pqInit (s : State) : Bool := s.pq.isSome
/-- `code_valid` -/
def codeValid (s : State) : Bool := s.code.isSome
/-- `ftree_valid` -/
def ftreeValid (s : State) : Bool := s.ftree.isSome

/-- `pq_size`, 0 with no queue (as register 5 reads, 10_state.md R45). -/
def pqSize (s : State) : Nat :=
  match s.pq with
  | none => 0
  | some q => q.entries.length

/-- `pq_cap`, 0 with no queue (register 6). -/
def pqCap (s : State) : Nat :=
  match s.pq with
  | none => 0
  | some q => q.cap.toNat

/-- `arena_len`, 0 with no arena (register 11). -/
def arenaLen (s : State) : Nat :=
  match s.arena with
  | none => 0
  | some a => a.nodes.length

/-- `arena_cap`, 0 with no arena (register 12). -/
def arenaCap (s : State) : Nat :=
  match s.arena with
  | none => 0
  | some a => a.cap.toNat

/-- R46: bits 7:0 `RESULT`, 8 `DONE`, 16 to 21 the validity flags, the rest 0. -/
def statusWord (s : State) : Word32 :=
  0#10 ++ BitVec.ofBool (ftreeValid s) ++ BitVec.ofBool (codeValid s) ++ BitVec.ofBool s.rootValid
    ++ BitVec.ofBool (pqInit s) ++ BitVec.ofBool (arenaValid s) ++ BitVec.ofBool (ftValid s)
    ++ 0#7 ++ BitVec.ofBool s.done ++ s.result.code

end Sys2Proof.Machine
end

