-- ==== Sys2Proof/Machine/BitPacker.lean ====
section
/-! DEFINITION. `BP_PACK` (44_bit_packer_unpacker.md, section 1). The scratch `acc` and `nbits` is
passed from byte to byte (10_state.md R38, R40). -/

namespace Sys2Proof.Machine

/-- R191's inner loop: the bits of one code; a full byte goes to the sink. -/
def packBits : List Bool → Byte → Nat → State → Res (Byte × Nat)
  | [], acc, nbits, s => .ok (acc, nbits) s
  | b :: bs, acc, nbits, s =>
    let acc := (acc <<< 1) ||| (BitVec.ofBool b).setWidth 8
    if nbits + 1 = 8 then (snkPut acc s).bind fun _ s => packBits bs 0 0 s
    else packBits bs acc (nbits + 1) s

/-- R191's outer loop; the first argument bounds the passes. -/
def packLoop (code : CodeTable) : Nat → Byte → Nat → State → Res (Byte × Nat)
  | 0, _, _, _ => .stuck .loopUnfinished
  | n + 1, acc, nbits, s =>
    match srcNext s with
    | .err => .raised .fileAccessFailure s
    | .eof => .ok (acc, nbits) s
    | .byte b s =>
      if (tableGet code b).length = 0 then .raised .invalidResource s
      else (packBits (tableGet code b) acc nbits s).bind fun p s => packLoop code n p.1 p.2 s

/-- R191, R192: the last byte, only if 1 to 7 bits remain, padded with zeros on the right. -/
def putPartial (acc : Byte) (nbits : Nat) (s : State) : Res Unit :=
  if nbits > 0 then snkPut (acc <<< (8 - nbits)) s else .ok () s

/-- R191 but for its last line. -/
def bpPackBody (s : State) : Res Unit :=
  match s.code with
  | none => .raised .invalidArguments s
  | some code =>
    (packLoop code (s.src.length + 1) 0 0 (srcRewind s)).bind fun p s => putPartial p.1 p.2 s

/-- `BP_PACK` (R191). -/
def execBpPack (s : State) : Out :=
  finish (bpPackBody s)

end Sys2Proof.Machine
end

