-- ==== Sys2Proof/Machine/BitUnpacker.lean ====
section
/-! DEFINITION. `BU_UNPACK` (44_bit_packer_unpacker.md, section 2). The scratch `cur` and `emitted`
is passed along (10_state.md R39, R40). -/

namespace Sys2Proof.Machine

/-- `ftree[i]`. An entry with `i >= tree_size`, and one the last `SER_READ` did not load, has
unspecified content (10_state.md R43): a free value (log 6). Both can be met only after a
`SER_WRITE` has written `tree_size` while `ftree` is still held. -/
def ftreeNode (nodes : List FinalNode) (treeSize ctr i : Nat) : FinalNode :=
  let free : FinalNode := { sym := Config.freeFinalSym ctr i, left := Config.freeFinalLeft ctr i,
                            right := Config.freeFinalRight ctr i }
  if i < treeSize then (nodes[i]?).getD free else free

/-- R196's inner loop over the bits of one byte, from node `cur` with `emitted` symbols out. The
walk stops at `total` symbols, "even mid-byte" (R197). -/
def walkBits (nodeAt : Nat → FinalNode) (rt total : Nat) :
    List Bool → Nat → Nat → State → Res (Nat × Nat)
  | [], cur, emitted, s => .ok (cur, emitted) s
  | bit :: bits, cur, emitted, s =>
    let nxt := if bit then (nodeAt cur).right else (nodeAt cur).left
    if nxt = Config.noChild then .raised .invalidResource s
    else if (nodeAt nxt.toNat).isLeaf then
      (snkPut (nodeAt nxt.toNat).sym s).bind fun _ s =>
        if emitted + 1 = total then .ok (rt, emitted + 1) s
        else walkBits nodeAt rt total bits rt (emitted + 1) s
    else walkBits nodeAt rt total bits nxt.toNat emitted s

/-- R196's outer loop; the first argument bounds the passes. -/
def unpackLoop (nodeAt : Nat → FinalNode) (rt total : Nat) : Nat → Nat → Nat → State → Res Unit
  | 0, _, _, _ => .stuck .loopUnfinished
  | n + 1, cur, emitted, s =>
    if emitted < total then
      match srcNext s with
      | .err => .raised .fileAccessFailure s
      | .eof => .raised .unexpectedEndOfInput s
      | .byte b s =>
        (walkBits nodeAt rt total (bitsMsbFirst b) cur emitted s).bind fun p s =>
          unpackLoop nodeAt rt total n p.1 p.2 s
    else .ok () s

/-- R196 but for its last line. The root is the last node (30_encoding.md R104). -/
def buUnpackBody (s : State) : Res Unit :=
  match s.ftree with
  | none => .raised .invalidArguments s
  | some nodes =>
    let rt := s.treeSize.toNat - 1
    unpackLoop (ftreeNode nodes s.treeSize.toNat s.freeCtr) rt s.totalChars.toNat
      (s.src.length + 1) rt 0 s

/-- `BU_UNPACK` (R196). -/
def execBuUnpack (s : State) : Out :=
  finish (buUnpackBody s)

end Sys2Proof.Machine
end

