-- ==== Sys2Proof/Machine/CodeGenerator.lean ====
section
/-! DEFINITION. `CG_GEN` (43_code_generator.md). The explicit stack `stk[0..sp-1]` is a list with
its top first, and the path `path[0..plen-1]` a list with its last step first (10_state.md R37). -/

namespace Sys2Proof.Machine

/-- How the walk of R181 ends. -/
inductive WalkEnd where
  | done (nodes : List WorkNode) (code : CodeTable)
  | overflow
  | stuck (f : Fault)
deriving DecidableEq, Repr

/-- `arena[n].visited <- 1` -/
def markVisited (nodes : List WorkNode) (n : Nat) : List WorkNode :=
  nodes.modify n fun nd => { nd with visited := true }

/-- R181: is the child slot `c` a child still to explore? Nothing where it names no live node. -/
def unexplored (nodes : List WorkNode) (c : ChildIdx) : Option Bool :=
  if c = Config.noChild then some false
  else (nodes[c.toNat]?).map fun nd => !nd.visited

/-- R181's test of `Push`: would the stack or the path store overflow? -/
def pushOverflows (sp plen : Nat) : Bool :=
  decide (sp = Config.stackDepth) || decide (plen = Config.maxCodeLen)

/-- The loop of R181; the first argument bounds the passes. `Pop` drops a path bit but at the root,
where the path is empty. -/
def walkLoop : Nat → List WorkNode → CodeTable → List Nat → List Bool → WalkEnd
  | 0, _, _, _, _ => .stuck .loopUnfinished
  | _ + 1, nodes, code, [], _ => .done nodes code
  | k + 1, nodes, code, n :: stk, path =>
    match nodes[n]? with
    | none => .stuck .indexOutsideArray
    | some nd =>
      if nd.isLeaf then
        walkLoop k (markVisited nodes n) (tableSet code nd.sym path.reverse) stk path.tail
      else
        match unexplored nodes nd.left with
        | none => .stuck .indexOutsideArray
        | some true =>
          if pushOverflows (stk.length + 1) path.length then .overflow
          else walkLoop k nodes code (nd.left.toNat :: n :: stk) (false :: path)
        | some false =>
          match unexplored nodes nd.right with
          | none => .stuck .indexOutsideArray
          | some true =>
            if pushOverflows (stk.length + 1) path.length then .overflow
            else walkLoop k nodes code (nd.right.toNat :: n :: stk) (true :: path)
          | some false => walkLoop k (markVisited nodes n) code stk path.tail

/-- R181: every mark cleared. -/
def clearMarks (nodes : List WorkNode) : List WorkNode :=
  nodes.map fun nd => { nd with visited := false }

/-- A bound the walk never uses up. A child is pushed only while unmarked, so the first pop of
each run of pops marks a new node: at most `len` runs, each of at most 256 pops, and as many
pushes. -/
def walkBound (len : Nat) : Nat :=
  512 * (len + 1)

/-- R181 but for its last line. -/
def cgGenBody (s : State) : Res Unit :=
  match s.arena with
  | none => .raised .invalidArguments s
  | some a =>
    if s.rootValid = false then .raised .invalidArguments s
    else
      match walkLoop (walkBound a.nodes.length) (clearMarks a.nodes) (Vector.replicate 256 [])
              [s.root.toNat] [] with
      | .done nodes code => .ok () { s with arena := some { a with nodes := nodes }, code := some code }
      | .overflow => .raised .invalidResource s
      | .stuck f => .stuck f

/-- `CG_GEN` (R181). -/
def execCgGen (s : State) : Out :=
  finish (cgGenBody s)

end Sys2Proof.Machine
end

