-- ==== Sys2Proof/Machine/FrequencyTable.lean ====
section
/-! DEFINITION. `FT_COUNT` (40_frequency_table.md). -/

namespace Sys2Proof.Machine

/-- One more occurrence of byte `b` (R130, `ft[r] <- ft[r] + 1`). -/
def bumpCount (ft : FreqTable) (b : Byte) : FreqTable :=
  tableSet ft b (tableGet ft b + 1)

/-- The loop of R130 with its counters `ft` and `t`; the first argument bounds the passes. -/
def countLoop : Nat → FreqTable → Nat → State → Res (FreqTable × Nat)
  | 0, _, _, _ => .stuck .loopUnfinished
  | n + 1, ft, t, s =>
    match srcNext s with
    | .err => .raised .fileAccessFailure s
    | .eof => .ok (ft, t) s
    | .byte b s =>
      if t = Config.maxInput then .raised .invalidParameter s
      else countLoop n (bumpCount ft b) (t + 1) s

/-- R131: the number of byte values that occur. -/
def distinctCount (ft : FreqTable) : Nat :=
  ft.toList.countP fun f => f != 0

/-- R130 but for its last line. -/
def ftCountBody (s : State) : Res Unit :=
  (countLoop (s.src.length + 1) (Vector.replicate 256 0) 0 (srcRewind s)).bind fun p s =>
    if p.2 = 0 then .raised .invalidResource s
    else .ok () { s with totalChars := BitVec.ofNat 32 p.2,
                         nDistinct := BitVec.ofNat 9 (distinctCount p.1), ft := some p.1 }

/-- `FT_COUNT` (R130 to R134). -/
def execFtCount (s : State) : Out :=
  finish (ftCountBody s)

end Sys2Proof.Machine
end

