-- ==== Sys2Proof/Machine/Serializer.lean ====
section
/-! DEFINITION. `SER_WRITE` and `SER_READ` (45_serializer.md). -/

namespace Sys2Proof.Machine

/-- R210: the final form of a working node. -/
def finalOf (n : WorkNode) : FinalNode :=
  { sym := n.sym, left := n.left, right := n.right }

/-- R211, `PutRecord`: the five bytes of a node record (30_encoding.md R103). -/
def recordBytes (n : FinalNode) : List Byte :=
  n.sym :: (le16 n.left ++ le16 n.right)

/-- R211, 30_encoding.md R104: the nodes in record order, the last of the array first. -/
def recordOrder (nodes : List FinalNode) : List FinalNode :=
  match nodes.getLast? with
  | none => []
  | some r => r :: nodes.dropLast

/-- R211: everything `SER_WRITE` puts, in order. -/
def headerAndTree (totalChars : BitVec 32) (treeSize : BitVec 16) (nodes : List FinalNode) :
    List Byte :=
  le32 totalChars ++ le16 treeSize ++ (recordOrder nodes).flatMap recordBytes

/-- R211 but for its last line. -/
def serWriteBody (s : State) : Res Unit :=
  match s.arena with
  | none => .raised .invalidArguments s
  | some a =>
    if s.ft.isNone ∨ s.rootValid = false then .raised .invalidArguments s
    else if s.root.toNat + 1 ≠ a.nodes.length then .raised .invalidArguments s
    else
      let treeSize := BitVec.ofNat 16 a.nodes.length
      snkPutAll (headerAndTree s.totalChars treeSize (a.nodes.map finalOf))
        { s with treeSize := treeSize }

/-- R216: one node record. -/
def readRecord (s : State) : Res FinalNode :=
  (getLE 1 s).bind fun y s => (getLE 2 s).bind fun l s => (getLE 2 s).bind fun r s =>
    .ok { sym := BitVec.ofNat 8 y, left := BitVec.ofNat 16 l, right := BitVec.ofNat 16 r } s

/-- R216: `n` node records, in record order. -/
def readRecords : Nat → State → Res (List FinalNode)
  | 0, s => .ok [] s
  | n + 1, s => (readRecord s).bind fun x s => (readRecords n s).bind fun xs s => .ok (x :: xs) s

/-- R217: record 0 goes to the last place of `ftree`, record `k >= 1` to place `k - 1`. -/
def placeRecords (records : List FinalNode) : List FinalNode :=
  match records with
  | [] => []
  | r :: rest => rest ++ [r]

/-- R219 for every node. -/
def childrenInRange (treeSize : Nat) (nodes : List FinalNode) : Bool :=
  nodes.all fun n => childInRange treeSize n.left && childInRange treeSize n.right

/-- R216 but for its last line. -/
def serReadBody (s : State) : Res Unit :=
  (getLE 4 (srcRewind s)).bind fun tc s => (getLE 2 s).bind fun ts s =>
    let s := { s with totalChars := BitVec.ofNat 32 tc, treeSize := BitVec.ofNat 16 ts }
    if tc < Config.minTotalChars ∨ ts < Config.minTreeSize then .raised .invalidResource s
    else if ts > Config.maxNodes then .raised .invalidResource s
    else
      (readRecords ts s).bind fun records s =>
        if childrenInRange ts (placeRecords records) = true then
          .ok () { s with ftree := some (placeRecords records) }
        else .raised .invalidResource s

/-- `SER_WRITE` (R211). -/
def execSerWrite (s : State) : Out :=
  finish (serWriteBody s)

/-- `SER_READ` (R216). -/
def execSerRead (s : State) : Out :=
  finish (serReadBody s)

end Sys2Proof.Machine
end

