-- ==== Sys2Proof/Machine/PriorityQueue.lean ====
section
/-! DEFINITION. The binary min-heap and its commands `PQ_INIT`, `PQ_INSERT`, `PQ_EXTRACT2`
(41_priority_queue.md). A heap is the list of its live entries, `pq[0]` first (10_state.md R28). -/

namespace Sys2Proof.Machine

/-- The list with entries `i` and `j`, holding `a` and `b`, exchanged. -/
def swapEntries (h : List HeapEntry) (i j : Nat) (a b : HeapEntry) : List HeapEntry :=
  (h.set i b).set j a

/-- R143, `SiftUp(i)`: swap with the parent while it is strictly greater. The first argument bounds
the passes; a bound of at least `i` is never used up, since the parent's index is smaller. -/
def siftUp : Nat → List HeapEntry → Nat → List HeapEntry
  | 0, h, _ => h
  | n + 1, h, i =>
    if i = 0 then h
    else
      match h[(i - 1) / 2]?, h[i]? with
      | some p, some e =>
        if p.freq > e.freq then siftUp n (swapEntries h ((i - 1) / 2) i p e) ((i - 1) / 2) else h
      | _, _ => h

/-- R145: the child of `i` to compare with, the left one unless the right is strictly smaller. -/
def smallerChild (h : List HeapEntry) (i : Nat) : Option (Nat × HeapEntry) :=
  match h[2 * i + 1]? with
  | none => none
  | some l =>
    match h[2 * i + 2]? with
    | none => some (2 * i + 1, l)
    | some r => if r.freq < l.freq then some (2 * i + 2, r) else some (2 * i + 1, l)

/-- R145, `SiftDown(i)`: swap with the smaller child while strictly larger. The first argument
bounds the passes; a bound of at least the heap's size is never used up, since `i` grows. -/
def siftDown : Nat → List HeapEntry → Nat → List HeapEntry
  | 0, h, _ => h
  | n + 1, h, i =>
    match h[i]?, smallerChild h i with
    | some e, some (c, x) =>
      if e.freq > x.freq then siftDown n (swapEntries h i c e x) c else h
    | _, _ => h

/-- The heap after `HeapInsert` of `e` (R144): append, then sift up from the last place. -/
def heapPush (h : List HeapEntry) (e : HeapEntry) : List HeapEntry :=
  siftUp h.length (h ++ [e]) h.length

/-- `HeapRemoveMin` (R146): the entry `pq[0]` and the heap left, or nothing on an empty heap. -/
def heapPop (h : List HeapEntry) : Option (HeapEntry × List HeapEntry) :=
  match h[0]?, h[h.length - 1]? with
  | some m, some last =>
    some (m, siftDown h.length ((h.take (h.length - 1)).set 0 last) 0)
  | _, _ => none

/-- `HeapInsert(idx, freq)` (R144). -/
def heapInsert (e : HeapEntry) (s : State) : Res Unit :=
  match s.pq with
  | none => .raised .queueNotInitialized s
  | some q =>
    if q.entries.length = q.cap.toNat then .raised .queueSizeExceeded s
    else .ok () { s with pq := some { q with entries := heapPush q.entries e } }

/-- `HeapExtract2()` (R147). With two entries live both removals answer. -/
def heapExtract2 (s : State) : Res (HeapEntry × HeapEntry) :=
  match s.pq with
  | none => .raised .queueNotInitialized s
  | some q =>
    match heapPop q.entries with
    | none => .raised .invalidArguments s
    | some (a, h) =>
      match heapPop h with
      | none => .raised .invalidArguments s
      | some (b, h) => .ok (a, b) { s with pq := some { q with entries := h } }

/-- R141 but for its last line. -/
def pqInitBody (cap : BitVec 16) (s : State) : Res Unit :=
  match capOperand cap with
  | none => .raised .invalidParameter s
  | some c => .ok () { s with pq := some { cap := c, entries := [] } }

/-- R144 but for its last line. -/
def pqInsertBody (idx : BitVec 16) (freq : Word32) (s : State) : Res Unit :=
  match idxOperand idx with
  | none => .raised .invalidParameter s
  | some i => heapInsert { idx := i, freq := freq } s

/-- R147 but for its last line. -/
def pqExtract2Body (s : State) : Res Unit :=
  (heapExtract2 s).bind fun p s =>
    .ok () { s with ex0Idx := p.1.idx, ex0Freq := p.1.freq, ex1Idx := p.2.idx, ex1Freq := p.2.freq }

/-- `PQ_INIT cap` (R141). -/
def execPqInit (cap : BitVec 16) (s : State) : Out :=
  finish (pqInitBody cap s)

/-- `PQ_INSERT idx, freq` (R144). -/
def execPqInsert (idx : BitVec 16) (freq : Word32) (s : State) : Out :=
  finish (pqInsertBody idx freq s)

/-- `PQ_EXTRACT2` (R147). -/
def execPqExtract2 (s : State) : Out :=
  finish (pqExtract2Body s)

end Sys2Proof.Machine
end

