-- ==== Sys2Proof/Machine/TreeBuilder.lean ====
section
/-! DEFINITION. `TB_LEAVES` and `TB_BUILD` (42_tree_builder.md). -/

namespace Sys2Proof.Machine

/-- R161: one leaf per byte value that occurs, in ascending byte value (R162). -/
def leavesOf (ft : FreqTable) : List WorkNode :=
  (List.range 256).filterMap fun i =>
    let b := BitVec.ofNat 8 i
    if tableGet ft b = 0 then none
    else some { freq := tableGet ft b, sym := b, left := Config.noChild, right := Config.noChild,
                visited := false }

/-- R161: `HeapInsert(i, arena[i].freq)` for each listed index. -/
def insertLeaves (nodes : List WorkNode) : List Nat → State → Res Unit
  | [], s => .ok () s
  | i :: is, s =>
    match nodes[i]? with
    | none => .stuck .indexOutsideArray
    | some n =>
      (heapInsert { idx := BitVec.ofNat 10 i, freq := n.freq } s).andThen (insertLeaves nodes is)

/-- R161 but for its last line. -/
def tbLeavesBody (s : State) : Res Unit :=
  match s.ft with
  | none => .raised .invalidArguments s
  | some ft =>
    let nodes := leavesOf ft
    (insertLeaves nodes (List.range s.nDistinct.toNat)
      { s with arena := some { nodes := nodes, cap := s.nDistinct.setWidth 10 },
               pq := some { cap := s.nDistinct, entries := [] } }).andThen fun s =>
    .ok () { s with rootValid := false, code := none }

/-- `ArenaAppend(n)` (R163, R164): double the capacity first if the array is full. -/
def arenaAppend (n : WorkNode) (s : State) : Res Unit :=
  match s.arena with
  | none => .raised .invalidArguments s
  | some a =>
    if a.nodes.length = a.cap.toNat then
      if 2 * a.cap.toNat > Config.arenaDepth then .raised .memoryAllocationFailure s
      else .ok () { s with arena := some { nodes := a.nodes ++ [n],
                                           cap := BitVec.ofNat 10 (2 * a.cap.toNat) } }
    else .ok () { s with arena := some { a with nodes := a.nodes ++ [n] } }

/-- One pass of R165's loop: the first entry out becomes the left child (R167). -/
def mergeStep (s : State) : Res Unit :=
  (heapExtract2 s).bind fun p s =>
    if arenaLen s ≤ p.1.idx.toNat ∨ arenaLen s ≤ p.2.idx.toNat then .raised .invalidArguments s
    else if p.1.freq.toNat + p.2.freq.toNat ≥ Config.freqBound then .raised .invalidParameter s
    else
      (arenaAppend { freq := p.1.freq + p.2.freq, sym := Config.internalSym,
                     left := childOf p.1.idx, right := childOf p.2.idx, visited := false } s).andThen
        fun s => heapInsert { idx := BitVec.ofNat 10 (arenaLen s - 1),
                              freq := p.1.freq + p.2.freq } s

/-- R165's loop "while pq_size > 1"; the first argument bounds the passes and, since each pass
lowers `pq_size` by one, a bound of at least `pq_size` is never used up. -/
def buildLoop : Nat → State → Res Unit
  | 0, s => .ok () s
  | n + 1, s => if pqSize s > 1 then (mergeStep s).andThen (buildLoop n) else .ok () s

/-- R165: the queue's first entry replaced. -/
def replaceFirst (e : HeapEntry) (s : State) : State :=
  match s.pq with
  | none => s
  | some q => { s with pq := some { q with entries := q.entries.set 0 e } }

/-- R165 after the loop: the one entry left names the root, below a one-child root if it is a leaf
(R168). -/
def settleRoot (s : State) : Res Unit :=
  match s.arena, s.pq with
  | some a, some q =>
    match q.entries[0]? with
    | none => .raised .queueNotInitialized s
    | some e =>
      match a.nodes[e.idx.toNat]? with
      | none => .raised .invalidArguments s
      | some n =>
        if n.isLeaf then
          (arenaAppend { freq := e.freq, sym := Config.internalSym, left := childOf e.idx,
                         right := Config.noChild, visited := false } s).andThen fun s =>
            let r := BitVec.ofNat 10 (arenaLen s - 1)
            .ok () { replaceFirst { idx := r, freq := e.freq } s with
                       root := r, rootValid := true, code := none }
        else .ok () { s with root := e.idx, rootValid := true, code := none }
  | _, none => .raised .queueNotInitialized s
  | none, some _ => .raised .invalidArguments s

/-- R165 but for its last line; the order of the tests is R171's. -/
def tbBuildBody (s : State) : Res Unit :=
  if s.arena.isNone ∨ arenaCap s = 0 then .raised .invalidArguments s
  else if s.pq.isNone ∨ pqSize s = 0 then .raised .queueNotInitialized s
  else (buildLoop (pqSize s) s).andThen settleRoot

/-- `TB_LEAVES` (R161). -/
def execTbLeaves (s : State) : Out :=
  finish (tbLeavesBody s)

/-- `TB_BUILD` (R165). -/
def execTbBuild (s : State) : Out :=
  finish (tbBuildBody s)

end Sys2Proof.Machine
end

