-- ==== Sys2Proof/Machine/TopLevel.lean ====
section
/-! DEFINITION. `COMPRESS`, `DECOMPRESS` and `RELEASE` (46_top_level.md). -/

namespace Sys2Proof.Machine

/-- `Release()` as a piece of pseudocode that goes on. -/
def releaseBody (s : State) : Res Unit :=
  .ok () (releaseAll s)

/-- R230 but for its last line; the stages in layout order (R231). -/
def compressBody (s : State) : Res Unit :=
  (((((((ftCountBody (snkTruncate (releaseAll s))).andThen tbLeavesBody).andThen tbBuildBody).andThen
    cgGenBody).andThen serWriteBody).andThen bpPackBody).andThen releaseBody)

/-- R233 but for its last line. -/
def decompressBody (s : State) : Res Unit :=
  ((serReadBody (snkTruncate (releaseAll s))).andThen buUnpackBody).andThen releaseBody

/-- `COMPRESS` (R230). -/
def execCompress (s : State) : Out :=
  finish (compressBody s)

/-- `DECOMPRESS` (R233). -/
def execDecompress (s : State) : Out :=
  finish (decompressBody s)

/-- `RELEASE` (R236). -/
def execRelease (s : State) : Out :=
  finish (releaseBody s)

end Sys2Proof.Machine
end

