-- ==== Sys2Proof/Machine/Dispatch.lean ====
section
/-! DEFINITION. One arm per command of 30_encoding.md R92. -/

namespace Sys2Proof.Machine

def exec (i : Instr) (s : State) : Host.Outcome State Fault Refusal :=
  match i with
  | .compress => Sys2Proof.Machine.execCompress s
  | .decompress => Sys2Proof.Machine.execDecompress s
  | .ftCount => Sys2Proof.Machine.execFtCount s
  | .pqInit cap => Sys2Proof.Machine.execPqInit cap s
  | .pqInsert idx freq => Sys2Proof.Machine.execPqInsert idx freq s
  | .pqExtract2 => Sys2Proof.Machine.execPqExtract2 s
  | .tbLeaves => Sys2Proof.Machine.execTbLeaves s
  | .tbBuild => Sys2Proof.Machine.execTbBuild s
  | .cgGen => Sys2Proof.Machine.execCgGen s
  | .bpPack => Sys2Proof.Machine.execBpPack s
  | .buUnpack => Sys2Proof.Machine.execBuUnpack s
  | .serWrite => Sys2Proof.Machine.execSerWrite s
  | .serRead => Sys2Proof.Machine.execSerRead s
  | .release => Sys2Proof.Machine.execRelease s

end Sys2Proof.Machine
end

