-- ==== Sys2Proof/Machine/HostPort.lean ====
section
/-! DEFINITION. The host's side: the register file (10_state.md R45), binding the streams
(20_memory.md R67), and reset (70_reset_and_hazards.md R290, R291). -/

namespace Sys2Proof.Machine

/-- R45: host register `x[n]`; a read changes nothing. -/
def hostReg (s : State) (n : Nat) : Word32 :=
  match n with
  | 0 => statusWord s
  | 1 => s.totalChars
  | 2 => s.treeSize.setWidth 32
  | 3 => s.nDistinct.setWidth 32
  | 4 => s.root.setWidth 32
  | 5 => BitVec.ofNat 32 (pqSize s)
  | 6 => BitVec.ofNat 32 (pqCap s)
  | 7 => s.ex0Idx.setWidth 32
  | 8 => s.ex0Freq
  | 9 => s.ex1Idx.setWidth 32
  | 10 => s.ex1Freq
  | 11 => BitVec.ofNat 32 (arenaLen s)
  | 12 => BitVec.ofNat 32 (arenaCap s)
  | 13 => BitVec.ofNat 32 s.srcPos
  | 14 => BitVec.ofNat 32 s.snk.length
  | _ => 0

/-- `HostBindSource` (R67) -/
def bindSource (bytes : List Byte) (failAt : Option Nat) (s : State) : State :=
  { s with srcBound := true, src := bytes, srcFailAt := failAt, srcPos := 0 }

/-- `HostBindSink` (R67) -/
def bindSink (failAt : Option Nat) (s : State) : State :=
  { s with snkBound := true, snk := [], snkFailAt := failAt }

/-- `HostUnbind` (R67) -/
def unbindStreams (s : State) : State :=
  { s with srcBound := false, snkBound := false, srcPos := 0, snk := [] }

/-- R290, R291: the block's reset state; the host's own list of actions goes on (log 9), and the
free-value counter is no state of the block (log 6). -/
def resetBlock (s : State) : State :=
  { State.reset with hostq := s.hostq, freeCtr := s.freeCtr }

/-- What the host gets back (R264, log 3). -/
def answer (r : HostReply) (s : State) : State :=
  { s with reply := r }

end Sys2Proof.Machine
end

