-- ==== Sys2Proof/Machine/Issue.lean ====
section
/-! DEFINITION. What one host action does to the block (60_exceptions.md R264). -/

namespace Sys2Proof.Machine

/-- Issue one command word (30_encoding.md R93): decode it, run the command to completion, hand the
result code back; a word the decoder rejects performs the failure entry. -/
def issueWord (w : CmdWord) (s : State) : Out :=
  match decode w with
  | .ok i => returnResult (exec i s)
  | .reject k => returnResult (.next (failureEntry k s))

/-- One host action (20_memory.md R67, 10_state.md R45, 70_reset_and_hazards.md R290), with what the
host gets back (log 3). -/
def act (a : HostAction) (s : State) : Out :=
  match a with
  | .command w => issueWord w s
  | .bindSource bytes failAt => .next (answer .nothing (bindSource bytes failAt s))
  | .bindSink failAt => .next (answer .nothing (bindSink failAt s))
  | .unbind => .next (answer .nothing (unbindStreams s))
  | .readSink => .next (answer (.sinkBytes s.snk) s)
  | .readReg n => .next (answer (.regValue (hostReg s n)) s)
  | .reset => .next (answer .nothing (resetBlock s))

/-- No host action to come: the block waits (70_reset_and_hazards.md R292, log 2). -/
def wait (s : State) : Out :=
  .next s

end Sys2Proof.Machine
end

