-- ==== Sys2Proof/Machine/Step.lean ====
section
/-! DEFINITION. One step: the host's next action (60_exceptions.md R264, R266). -/

namespace Sys2Proof.Machine

/-- One step takes the host's next action, or waits for the host (logs 1, 2). -/
def step (s : State) : Host.Outcome State Fault Refusal :=
  match popAction s with
  | none => wait s
  | some (a, t) => act a t

/-- The state with a command word, numbered as spec/opcode_table.json numbers it, as the host's
next action: there is no stored program to put it in (10_state.md R22; log 1). -/
def State.withFetchWord (s : State) (nbits w : Nat) : State :=
  pushCommand (tableWord nbits w) s

end Sys2Proof.Machine
end

