-- ==== Sys2Proof/Safety.lean ====
section
/-! DEFINITION. What the statements are said in: the invariant of the machine, the conditions under
which a stream serves a command, and the compressed file, its codes and its walk written from
30_encoding.md R100 to R106 by positions, without the machine's own functions. -/

namespace Sys2Proof.Machine

/-! The streams. -/

/-- A failure point that lets the first `n` accesses (positions below `n`) succeed. -/
def allows (failAt : Option Nat) (n : Nat) : Bool :=
  match failAt with
  | none => true
  | some f => decide (n ≤ f)

/-- The source can be read to its end from any position: it is bound and no read up to the one that
answers `EOF`, at position `|src|`, fails (20_memory.md R63). -/
abbrev SourceServes (s : State) : Prop :=
  s.srcBound = true ∧ allows s.srcFailAt (s.src.length + 1) = true

/-- The sink takes `n` more bytes (20_memory.md R65). -/
abbrev SinkTakes (n : Nat) (s : State) : Prop :=
  s.snkBound = true ∧ allows s.snkFailAt (s.snk.length + n) = true

/-- How many more bytes the sink takes before a put fails; nothing where there is no limit
(20_memory.md R64, R65). -/
def sinkRoom (s : State) : Option Nat :=
  if s.snkBound = true then s.snkFailAt.map fun g => g - s.snk.length else some 0

/-- The next `n` puts succeed. -/
abbrev RoomFor (n : Nat) (s : State) : Prop :=
  ∀ g ∈ sinkRoom s, n ≤ g

/-! The invariant. -/

/-- The frequency of entry `i`, 0 past the end. -/
def freqAt (h : List HeapEntry) (i : Nat) : Nat :=
  match h[i]? with
  | none => 0
  | some e => e.freq.toNat

/-- 10_state.md R29: "every parent's key is ≤ both children's keys". -/
abbrev HeapOrdered (h : List HeapEntry) : Prop :=
  ∀ i, i < h.length → 0 < i → freqAt h ((i - 1) / 2) ≤ freqAt h i

/-- 10_state.md R28, R29, 41_priority_queue.md R141. -/
abbrev QueueWf (q : Queue) : Prop :=
  1 ≤ q.cap.toNat ∧ q.cap.toNat ≤ Config.heapDepth ∧ q.entries.length ≤ q.cap.toNat ∧
    HeapOrdered q.entries

/-- A working node at index `i`: a leaf, or a left child and perhaps a right one (10_state.md R32,
R33), all before `i`. -/
def nodeWf (n : WorkNode) (i : Nat) : Bool :=
  n.isLeaf ||
    (n.left != Config.noChild && decide (n.left.toNat < i) &&
      (n.right == Config.noChild || decide (n.right.toNat < i)))

/-- 10_state.md R31, R32, R34. -/
abbrev ArenaWf (a : Arena) : Prop :=
  1 ≤ a.cap.toNat ∧ a.cap.toNat ≤ Config.arenaDepth ∧ a.nodes.length ≤ a.cap.toNat ∧
    ∀ p ∈ a.nodes.zipIdx, nodeWf p.1 p.2 = true

/-- 10_state.md R36, 45_serializer.md R218, R219. -/
abbrev FtreeWf (nodes : List FinalNode) : Prop :=
  Config.minTreeSize ≤ nodes.length ∧ nodes.length ≤ Config.maxNodes ∧
    ∀ n ∈ nodes, childInRange nodes.length n.left = true ∧ childInRange nodes.length n.right = true

/-- 10_state.md R35: no code is longer than the path store. -/
def codesFit (c : CodeTable) : Bool :=
  c.toList.all fun bits => decide (bits.length ≤ Config.maxCodeLen)

/-- What every step keeps. -/
structure State.Inv (s : State) : Prop where
  /-- 10_state.md R23: `result` is 0 until a command has completed. -/
  result_before_done : s.done = false → s.result = .ok
  /-- 60_exceptions.md R253 -/
  result_known : s.result ≠ .error .unknownError
  /-- 40_frequency_table.md R131: `n_distinct` counts the table's symbols, at least one. -/
  ft_wf : ∀ ft ∈ s.ft, 1 ≤ distinctCount ft ∧ s.nDistinct.toNat = distinctCount ft
  /-- 10_state.md R31, R32, R33, R34 -/
  arena_wf : ∀ a ∈ s.arena, ArenaWf a
  /-- 10_state.md R28, R29 -/
  queue_wf : ∀ q ∈ s.pq, QueueWf q
  /-- 10_state.md R25: `root` names a node while `root_valid` is 1. -/
  root_wf : s.rootValid = true → s.root.toNat < arenaLen s
  /-- 10_state.md R25, R35: a code table belongs to a finished tree; no code is longer than the
  path store. -/
  code_wf : ∀ c ∈ s.code, s.rootValid = true ∧ codesFit c = true
  /-- 10_state.md R36, 45_serializer.md R218, R219 -/
  ftree_wf : ∀ nodes ∈ s.ftree, FtreeWf nodes
  /-- 20_memory.md R63: the position never passes the end. -/
  src_pos_le : s.srcPos ≤ s.src.length
  /-- 20_memory.md R65, R67: nothing is in a sink that is not bound. -/
  snk_unbound : s.snkBound = false → s.snk = []
  /-- 20_memory.md R65: the sink never holds more than its failure point lets through. -/
  snk_fits : allows s.snkFailAt s.snk.length = true

/-- No structure is held: what a release leaves (10_state.md R42). -/
abbrev SessionEmpty (s : State) : Prop :=
  ftValid s = false ∧ arenaValid s = false ∧ pqInit s = false ∧ s.rootValid = false ∧
    codeValid s = false ∧ ftreeValid s = false

/-! Counting. -/

/-- The frequency table of a byte list (40_frequency_table.md R130, R131). -/
def countsOf (bs : List Byte) : FreqTable :=
  Vector.ofFn fun i => BitVec.ofNat 32 (bs.count (BitVec.ofNat 8 i.val))

/-- The number of byte values that occur (R131). -/
def distinctOf (bs : List Byte) : Nat :=
  ((List.range 256).filter fun i => bs.contains (BitVec.ofNat 8 i)).length

/-! The compressed file. -/

/-- `n` bytes of a number, least significant first (20_memory.md R70, R72). -/
def littleEndian (n v : Nat) : List Byte :=
  (List.range n).map fun j => BitVec.ofNat 8 (v / 256 ^ j)

/-- 30_encoding.md R104: the array index of record number `k` of `t` records. -/
def recordIndex (t k : Nat) : Nat :=
  if k = 0 then t - 1 else k - 1

/-- 30_encoding.md R103: a node's five bytes; nothing for no node. -/
def recordOf (n : Option FinalNode) : List Byte :=
  match n with
  | none => []
  | some n => n.sym :: (littleEndian 2 n.left.toNat ++ littleEndian 2 n.right.toNat)

/-- 30_encoding.md R100: header and node records of a tree given by its node array. -/
def fileHead (totalChars : Nat) (nodes : List FinalNode) : List Byte :=
  littleEndian 4 totalChars ++ littleEndian 2 nodes.length ++
    (List.range nodes.length).flatMap fun k => recordOf nodes[recordIndex nodes.length k]?

/-- 30_encoding.md R106: byte `j` holds bits `8j` to `8j+7` of the string, bit `8j` in bit 7, with
zeros past the end. -/
def packedByte (bits : List Bool) (j : Nat) : Byte :=
  BitVec.ofNat 8 ((List.range 8).foldl (fun v k => 2 * v + (bits.getD (8 * j + k) false).toNat) 0)

/-- 30_encoding.md R106: the payload, `ceil(|P| / 8)` bytes. -/
def packed (bits : List Bool) : List Byte :=
  (List.range ((bits.length + 7) / 8)).map (packedByte bits)

/-- The bits of a byte list, most significant first in each byte (20_memory.md R71). -/
def bitString (bs : List Byte) : List Bool :=
  bs.flatMap fun b => (List.range 8).map fun k => b.getLsbD (7 - k)

/-! Trees. -/

/-- The final form of an arena's nodes (45_serializer.md R210). -/
def finalsOf (a : Arena) : List FinalNode :=
  a.nodes.map fun n => { sym := n.sym, left := n.left, right := n.right }

/-- The node a string of steps leads to, 0 left and 1 right (30_encoding.md R105); nothing where a
child is missing. -/
def follow (nodes : List FinalNode) : Nat → List Bool → Option FinalNode
  | i, [] => nodes[i]?
  | i, b :: bs =>
    match nodes[i]? with
    | none => none
    | some n =>
      let c := if b then n.right else n.left
      if c = Config.noChild then none else follow nodes c.toNat bs

/-- The symbol at the end of a path of at least one step, if it ends at a leaf. -/
def leafSym (nodes : List FinalNode) (root : Nat) (path : List Bool) : Option Byte :=
  match path, follow nodes root path with
  | _ :: _, some n => if n.isLeaf then some n.sym else none
  | _, _ => none

/-- Where a walk of `BU_UNPACK` stands that has taken the steps `path` since the root and not yet
reached a leaf (44_bit_packer_unpacker.md R196); nothing if a child is missing or a leaf ends it. -/
def midway (nodes : List FinalNode) (root : Nat) (path : List Bool) : Option FinalNode :=
  match follow nodes root path with
  | none => none
  | some n => if path.isEmpty || !n.isLeaf then some n else none

/-- The index a string of steps leads to; nothing where a child is missing. -/
def reach (nodes : List FinalNode) : Nat → List Bool → Option Nat
  | i, [] => if i < nodes.length then some i else none
  | i, b :: bs =>
    match nodes[i]? with
    | none => none
    | some n =>
      let c := if b then n.right else n.left
      if c = Config.noChild then none else reach nodes c.toNat bs

/-- A path each of whose nodes a left-before-right traversal with marks enters along the path itself
(43_code_generator.md R183): no node after a step to the right can be reached by going left there. -/
abbrev FirstReached (nodes : List FinalNode) (root : Nat) (path : List Bool) : Prop :=
  reach nodes root path ≠ none ∧
    ∀ before after rest other : List Bool, path = before ++ true :: after ++ rest →
      reach nodes root (before ++ false :: other) ≠ none →
      reach nodes root (before ++ false :: other) ≠ reach nodes root (before ++ true :: after)

/-- The heights of an array's nodes when children come before their parents. -/
def heights (nodes : List WorkNode) : List Nat :=
  nodes.foldl (fun hs n => hs ++ [if n.isLeaf then 0
    else 1 + max (hs.getD n.left.toNat 0) (hs.getD n.right.toNat 0)]) []

/-- The nodes with the traversal's mark left out. -/
def unmarked (nodes : List WorkNode) : List WorkNode :=
  nodes.map fun n => { n with visited := false }

/-! Merging. -/

/-- 42_tree_builder.md R163 to R165: the state after a merge of the entries `x` and `y`, in this
order, which left the heap `h`. -/
def merged (s : State) (a : Arena) (q : Queue) (x y : HeapEntry) (h : List HeapEntry) : State :=
  let f := BitVec.ofNat 32 (x.freq.toNat + y.freq.toNat)
  { s with
    arena := some {
      nodes := a.nodes ++ [{ freq := f, sym := 0x00, left := BitVec.ofNat 16 x.idx.toNat,
                             right := BitVec.ofNat 16 y.idx.toNat, visited := false }],
      cap := if a.nodes.length = a.cap.toNat then BitVec.ofNat 10 (2 * a.cap.toNat) else a.cap },
    pq := some { q with
      entries := heapPush h { idx := BitVec.ofNat 10 a.nodes.length, freq := f } } }

/-- R165: can the entries `x` and `y` be merged, with a place for the new node? -/
def mergeable (a : Arena) (x y : HeapEntry) : Bool :=
  decide (x.idx.toNat < a.nodes.length) && decide (y.idx.toNat < a.nodes.length) &&
    decide (x.freq.toNat + y.freq.toNat < Config.freqBound) &&
    (decide (a.nodes.length < a.cap.toNat) ||
      (decide (a.nodes.length = a.cap.toNat) &&
        decide (2 * a.cap.toNat ≤ Config.arenaDepth)))

/-- One merge of the two entries that two removals of the minimum give (41_priority_queue.md R146,
R147), if there are two, the queue is within its capacity, and they can be merged. -/
def mergeOnce (s : State) : Option State :=
  match s.arena, s.pq with
  | some a, some q =>
    match heapPop q.entries with
    | none => none
    | some (x, h) =>
      match heapPop h with
      | none => none
      | some (y, h') =>
        if decide (q.entries.length ≤ q.cap.toNat) && mergeable a x y then
          some (merged s a q x y h')
        else none
  | _, _ => none

/-- That many merges in turn. -/
def mergeTimes : Nat → State → Option State
  | 0, s => some s
  | k + 1, s =>
    match mergeOnce s with
    | none => none
    | some t => mergeTimes k t

/-! Which command writes what (20_memory.md R68, 10_state.md R23, R24, R25). `COMPRESS` and
`DECOMPRESS` write what their stages write, and they and `RELEASE` clear the flags. -/

/-- A command that ends or starts with a release. -/
def releases : Instr → Bool
  | .compress | .decompress | .release => true
  | .ftCount | .pqInit _ | .pqInsert _ _ | .pqExtract2 | .tbLeaves | .tbBuild | .cgGen | .bpPack
  | .buUnpack | .serWrite | .serRead => false

/-- Writers of the queue. -/
def writesQueue : Instr → Bool
  | .pqInit _ | .pqInsert _ _ | .pqExtract2 | .tbLeaves | .tbBuild => true
  | .compress | .decompress | .release | .ftCount | .cgGen | .bpPack | .buUnpack | .serWrite
  | .serRead => false

/-- Writers of the working tree (`CG_GEN` writes its marks). -/
def writesArena : Instr → Bool
  | .tbLeaves | .tbBuild | .cgGen => true
  | .compress | .decompress | .release | .ftCount | .pqInit _ | .pqInsert _ _ | .pqExtract2
  | .bpPack | .buUnpack | .serWrite | .serRead => false

/-- Commands that move the source position. -/
def readsSource : Instr → Bool
  | .compress | .decompress | .ftCount | .bpPack | .buUnpack | .serRead => true
  | .release | .pqInit _ | .pqInsert _ _ | .pqExtract2 | .tbLeaves | .tbBuild | .cgGen
  | .serWrite => false

/-- Component commands that append to the sink. -/
def appendsToSink : Instr → Bool
  | .bpPack | .buUnpack | .serWrite => true
  | .compress | .decompress | .release | .ftCount | .pqInit _ | .pqInsert _ _ | .pqExtract2
  | .tbLeaves | .tbBuild | .cgGen | .serRead => false

/-! Sequences of commands. -/

/-- The host issues the commands in turn and stops after the first result that is not `OK`
(46_top_level.md R231). -/
def issueAll : List Instr → State → Out
  | [], s => .next s
  | i :: is, s =>
    match exec i s with
    | .next t => if t.result = .ok then issueAll is t else .next t
    | .fault f => .fault f
    | .refused r => .refused r

end Sys2Proof.Machine
end

