-- ==== Sys2Proof/Certificates/Slice0/Obligations.lean ====
section
/-! DEFINITION. The statements for the provers. Each docstring names the rule of spec/ it rests on. -/

open Sys2Proof Sys2Proof.Machine

/-! Decoding and stepping. -/

/-- 30_encoding.md R93, R94: the words of spec/opcode_table.json's match and mask pairs are exactly
the words that decode, each is the word of the command it decodes to, and every other word is
rejected, by its opcode first. -/
def Obligations.WordsDecodeExactlyWhenLegal : Prop :=
  ∀ w : CmdWord,
    (wordLegal w = true ↔ (fieldsOf w).wf = true) ∧
    (wordLegal w = true → ∃ i, decode w = .ok i ∧ encode i = w) ∧
    ((fieldsOf w).opcode ∉ assignedOpcodes → decode w = .reject .unknownOption) ∧
    ((fieldsOf w).opcode ∈ assignedOpcodes → wordLegal w = false →
      decode w = .reject .invalidParameter)

/-- 30_encoding.md R91, R93, R97: the word of a command, with every operand at every value, decodes
to that command. -/
def Obligations.EncodedCommandsDecodeBack : Prop :=
  ∀ i : Instr, decode (encode i) = .ok i ∧ decodeTableWord 64 (encode i).toNat = some i

/-- The words written out in the command rules (R130, R141, R147, R161, R165, R181, R191, R196, R211,
R216, R230, R233, R236) and in 95_test_vectors.md V-DEC-1, 3, 4, 5, 6 and 7. -/
def Obligations.SpecWordsDecode : Prop :=
  decode 0x0100000000000000#64 = .ok .compress ∧
  decode 0x0200000000000000#64 = .ok .decompress ∧
  decode 0x1000000000000000#64 = .ok .ftCount ∧
  decode 0x2000000200000000#64 = .ok (.pqInit 2) ∧
  decode 0x210001FFFFFFFFFF#64 = .ok (.pqInsert 511 4294967295) ∧
  decode 0x2200000000000000#64 = .ok .pqExtract2 ∧
  decode 0x3000000000000000#64 = .ok .tbLeaves ∧
  decode 0x3100000000000000#64 = .ok .tbBuild ∧
  decode 0x4000000000000000#64 = .ok .cgGen ∧
  decode 0x5000000000000000#64 = .ok .bpPack ∧
  decode 0x5100000000000000#64 = .ok .buUnpack ∧
  decode 0x6000000000000000#64 = .ok .serWrite ∧
  decode 0x6100000000000000#64 = .ok .serRead ∧
  decode 0xF000000000000000#64 = .ok .release ∧
  decode 0x0000000000000000#64 = .reject .unknownOption ∧
  decode 0x0101000000000000#64 = .reject .invalidParameter ∧
  decode 0x0100000100000000#64 = .reject .invalidParameter ∧
  decode 0x2000000200000001#64 = .reject .invalidParameter ∧
  decode 0x7701000000000000#64 = .reject .unknownOption

/-- 00_scope.md R11, 60_exceptions.md R264: when the host's next action is a word that decodes to
`i`, the step is `exec i` on the state with the action taken, and the result code handed back. The
host's list, its reply and the free-value counter are the model's own (logs 1, 3, 6). -/
def Obligations.StepIssuesDecodedCommand : Prop :=
  ∀ (s : State) (w : CmdWord) (rest : List HostAction) (i : Instr),
    s.hostq = .command w :: rest → decode w = .ok i →
      step s =
        match exec i { s with hostq := rest, freeCtr := s.freeCtr + 1 } with
        | .next t => .next { t with reply := .result t.result }
        | .fault f => .fault f
        | .refused r => .refused r

/-- 30_encoding.md R94 with 60_exceptions.md R257: an unassigned opcode fails with
`UNKNOWN_OPTION`, an assigned one with a stray field with `INVALID_PARAMETER`, through the failure
entry, written out. The host's list, its reply and the free-value counter are the model's own
(logs 1, 3, 6). -/
def Obligations.IllegalWordsFail : Prop :=
  ∀ (s : State) (w : CmdWord) (rest : List HostAction) (k : ErrorKind),
    s.hostq = .command w :: rest →
    ((fieldsOf w).opcode ∉ assignedOpcodes ∧ k = .unknownOption ∨
      (fieldsOf w).opcode ∈ assignedOpcodes ∧ (fieldsOf w).wf = false ∧ k = .invalidParameter) →
      step s = .next { s with
        hostq := rest, freeCtr := s.freeCtr + 1, reply := .result (.error k),
        ft := none, arena := none, pq := none, rootValid := false, code := none, ftree := none,
        snk := if s.snkBound = true then [] else s.snk, result := .error k, done := true }

/-- 20_memory.md R67, 10_state.md R45: each host action that is no command has its effect and no
other. The model's own or the model's choice: the list the action is taken from (log 1), the
counter that advances (log 6) and the reply (log 3); that unbinding leaves the source's bytes and
both failure points, which R67 does not name (log 8, an inference); and that with no action to come
the step changes nothing (log 2, an inference from 70_reset_and_hazards.md R292). -/
def Obligations.HostActionsHaveTheirEffect : Prop :=
  ∀ (s : State) (rest : List HostAction),
    let p : State := { s with hostq := rest, freeCtr := s.freeCtr + 1, reply := .nothing }
    (∀ bytes f, s.hostq = .bindSource bytes f :: rest →
      step s = .next { p with srcBound := true, src := bytes, srcFailAt := f, srcPos := 0 }) ∧
    (∀ g, s.hostq = .bindSink g :: rest →
      step s = .next { p with snkBound := true, snk := [], snkFailAt := g }) ∧
    (s.hostq = .unbind :: rest →
      step s = .next { p with srcBound := false, snkBound := false, srcPos := 0, snk := [] }) ∧
    (s.hostq = .readSink :: rest → step s = .next { p with reply := .sinkBytes s.snk }) ∧
    (∀ n, s.hostq = .readReg n :: rest →
      step s = .next { p with reply := .regValue (hostReg s n) }) ∧
    (s.hostq = [] → step s = .next s)

/-- 10_state.md R45, R46 and 30_encoding.md R95: every host register, each field of `STATUS`, and
the numbers of the results. -/
def Obligations.RegisterFileReads : Prop :=
  ∀ s : State,
    (hostReg s 0).extractLsb' 0 8 = s.result.code ∧ (hostReg s 0).getLsbD 8 = s.done ∧
    (hostReg s 0).extractLsb' 9 7 = 0 ∧ (hostReg s 0).getLsbD 16 = s.ft.isSome ∧
    (hostReg s 0).getLsbD 17 = s.arena.isSome ∧ (hostReg s 0).getLsbD 18 = s.pq.isSome ∧
    (hostReg s 0).getLsbD 19 = s.rootValid ∧ (hostReg s 0).getLsbD 20 = s.code.isSome ∧
    (hostReg s 0).getLsbD 21 = s.ftree.isSome ∧ (hostReg s 0).extractLsb' 22 10 = 0 ∧
    hostReg s 1 = s.totalChars ∧ (hostReg s 2).toNat = s.treeSize.toNat ∧
    (hostReg s 3).toNat = s.nDistinct.toNat ∧ (hostReg s 4).toNat = s.root.toNat ∧
    hostReg s 5 = BitVec.ofNat 32 (s.pq.elim 0 fun q => q.entries.length) ∧
    hostReg s 6 = BitVec.ofNat 32 (s.pq.elim 0 fun q => q.cap.toNat) ∧
    (hostReg s 7).toNat = s.ex0Idx.toNat ∧ hostReg s 8 = s.ex0Freq ∧
    (hostReg s 9).toNat = s.ex1Idx.toNat ∧ hostReg s 10 = s.ex1Freq ∧
    hostReg s 11 = BitVec.ofNat 32 (s.arena.elim 0 fun a => a.nodes.length) ∧
    hostReg s 12 = BitVec.ofNat 32 (s.arena.elim 0 fun a => a.cap.toNat) ∧
    hostReg s 13 = BitVec.ofNat 32 s.srcPos ∧ hostReg s 14 = BitVec.ofNat 32 s.snk.length ∧
    (∀ n, 15 ≤ n → hostReg s n = 0) ∧
    ([ErrorKind.invalidParameter, .memoryAllocationFailure, .invalidResource, .invalidArguments,
      .fileAccessFailure, .unexpectedEndOfInput, .queueNotInitialized, .queueSizeExceeded,
      .unknownOption, .unknownError].map fun k => (ResultCode.error k).code.toNat) =
        [1, 2, 3, 4, 5, 6, 7, 8, 9, 10] ∧ ResultCode.ok.code = 0

/-! Reset, the invariant, and that every step answers. -/

/-- 10_state.md R47, 70_reset_and_hazards.md R290: a reset of any state leaves R47's values, with no
structure held. The model's choice, not the spec's, are these clauses: the host's list and the
counter go on (logs 9, 1, 6), and in the equation with `State.reset` the source's bytes are none and
both failure points absent (log 7) and the reply is 'nothing' (log 3). -/
def Obligations.ResetLeavesNothing : Prop :=
  ∀ (s : State) (rest : List HostAction), s.hostq = .reset :: rest →
    ∃ t, step s = .next t ∧ t.result.code = 0 ∧ t.done = false ∧ t.totalChars = 0 ∧
      t.treeSize = 0 ∧ t.nDistinct = 0 ∧ t.root = 0 ∧ t.ex0Idx = 0 ∧ t.ex0Freq = 0 ∧
      t.ex1Idx = 0 ∧ t.ex1Freq = 0 ∧ SessionEmpty t ∧ t.srcBound = false ∧ t.snkBound = false ∧
      t.srcPos = 0 ∧ t.snk = [] ∧ t.hostq = rest ∧
      t = { State.reset with hostq := rest, freeCtr := s.freeCtr + 1 } ∧
      ∀ n, hostReg t n = 0

/-- The invariant of 10_state.md R29, R31 to R34, R36 holds at reset. -/
def Obligations.ResetMeetsInvariant : Prop :=
  State.reset.Inv

/-- Every step, of a command or of any other host action, keeps the invariant: the heap order of
10_state.md R29, the capacities of R31, the node shapes and index references of R32 to R34, the
checked final tree of R36, and the agreement of flags, registers and streams. -/
def Obligations.StepKeepsInvariant : Prop :=
  ∀ s t : State, s.Inv → step s = .next t → t.Inv

/-- 46_top_level.md R242, 70_reset_and_hazards.md R309, 60_exceptions.md R250: the block cannot hang
and every command returns a result; no step of a state that meets the invariant is a fault or a
refusal. The rules mark the first two as derived. -/
def Obligations.StepAlwaysAnswers : Prop :=
  ∀ s : State, s.Inv → ∃ t, step s = .next t

/-! What holds of every command. -/

/-- 60_exceptions.md R257, R259: whatever command failed and however far it had run, the session is
empty, the sink, if bound, is empty, and `done` is 1. -/
def Obligations.FailedCommandLeavesNothing : Prop :=
  ∀ (i : Instr) (s t : State) (k : ErrorKind), exec i s = .next t → t.result = .error k →
    SessionEmpty t ∧ t.done = true ∧ (s.snkBound = true → t.snk = []) ∧
      (s.snkBound = false → t.snk = s.snk)

/-- 60_exceptions.md R253: code 10 is in the list and no command or decode returns it. -/
def Obligations.UnknownErrorNeverReturned : Prop :=
  ErrorKind.unknownError.code = 10 ∧
  (∀ (i : Instr) (s t : State), exec i s = .next t → t.result ≠ .error .unknownError) ∧
  ∀ w : CmdWord, decode w ≠ .reject .unknownError

/-- 20_memory.md R61, R64, 60_exceptions.md R257, R258: a command changes neither the bytes of the
source nor a binding nor a failure point; `done` is 1 after it. The clauses on `hostq`, `reply` and
`freeCtr` speak of the model's own fields and are the model's choice (logs 1, 3, 6). -/
def Obligations.CommandsKeepTheHostsSide : Prop :=
  ∀ (i : Instr) (s t : State), exec i s = .next t →
    t.srcBound = s.srcBound ∧ t.src = s.src ∧ t.srcFailAt = s.srcFailAt ∧
    t.snkBound = s.snkBound ∧ t.snkFailAt = s.snkFailAt ∧ t.hostq = s.hostq ∧
    t.reply = s.reply ∧ t.freeCtr = s.freeCtr ∧ t.done = true

/-- 10_state.md R24: the extraction registers hold the two entries of the last successful
`PQ_EXTRACT2`; no other command, and no failure, writes them. -/
def Obligations.ExtractionRegistersHeldForHost : Prop :=
  ∀ (i : Instr) (s t : State), exec i s = .next t →
    (i ≠ .pqExtract2 ∨ t.result ≠ .ok →
      t.ex0Idx = s.ex0Idx ∧ t.ex0Freq = s.ex0Freq ∧ t.ex1Idx = s.ex1Idx ∧
      t.ex1Freq = s.ex1Freq) ∧
    (i = .pqExtract2 → t.result = .ok → ∃ q a b h h', s.pq = some q ∧
      heapPop q.entries = some (a, h) ∧ heapPop h = some (b, h') ∧
      t.ex0Idx = a.idx ∧ t.ex0Freq = a.freq ∧ t.ex1Idx = b.idx ∧ t.ex1Freq = b.freq)

/-- 10_state.md R23, the column "written by": no other command writes these registers, failing or
not. -/
def Obligations.InformationRegistersWriters : Prop :=
  ∀ (i : Instr) (s t : State), exec i s = .next t →
    (i ∉ [.ftCount, .serRead, .compress, .decompress] → t.totalChars = s.totalChars) ∧
    (i ∉ [.serWrite, .serRead, .compress, .decompress] → t.treeSize = s.treeSize) ∧
    (i ∉ [.ftCount, .compress] → t.nDistinct = s.nDistinct) ∧
    (i ∉ [.tbBuild, .compress] → t.root = s.root)

/-- 20_memory.md R68 and 10_state.md R25: a command that succeeds leaves alone every structure and
flag it is not listed as writing, setting or clearing. -/
def Obligations.StructuresKeptByOtherCommands : Prop :=
  ∀ (i : Instr) (s t : State), exec i s = .next t → t.result = .ok → releases i = false →
    (i ≠ .ftCount → t.ft = s.ft) ∧
    (writesArena i = false → t.arena = s.arena) ∧
    (writesQueue i = false → t.pq = s.pq) ∧
    (i ≠ .tbLeaves → i ≠ .tbBuild → t.rootValid = s.rootValid) ∧
    (i ≠ .tbLeaves → i ≠ .tbBuild → i ≠ .cgGen → t.code = s.code) ∧
    (i ≠ .serRead → t.ftree = s.ftree)

/-- 20_memory.md R60, R62 to R65, 70_reset_and_hazards.md R297: only the listed commands move the
source position; a component command that succeeds either leaves the sink as it was or has appended
to it. -/
def Obligations.StreamsMovedOnlyByTheirCommands : Prop :=
  ∀ (i : Instr) (s t : State), exec i s = .next t →
    (readsSource i = false → t.srcPos = s.srcPos) ∧
    (t.result = .ok → i ≠ .compress → i ≠ .decompress → appendsToSink i = false →
      t.snk = s.snk) ∧
    (t.result = .ok → appendsToSink i = true → ∃ more, t.snk = s.snk ++ more)

/-- 60_exceptions.md R251, code 4: a component command issued without the structure it needs, and
`SER_WRITE` with a root that is not the last node (45_serializer.md R213). -/
def Obligations.MissingStructureFails : Prop :=
  ∀ s : State,
    (s.ft = none → exec .tbLeaves s = .next (failureEntry .invalidArguments s)) ∧
    (s.arena = none ∨ s.rootValid = false →
      exec .cgGen s = .next (failureEntry .invalidArguments s)) ∧
    (s.code = none → exec .bpPack s = .next (failureEntry .invalidArguments s)) ∧
    (s.ft = none ∨ s.arena = none ∨ s.rootValid = false →
      exec .serWrite s = .next (failureEntry .invalidArguments s)) ∧
    (∀ a, s.arena = some a → s.root.toNat + 1 ≠ a.nodes.length →
      exec .serWrite s = .next (failureEntry .invalidArguments s)) ∧
    (s.ftree = none → exec .buUnpack s = .next (failureEntry .invalidArguments s))

/-! FT_COUNT. -/

/-- 40_frequency_table.md R130, R131: a readable, non-empty source of at most `MAX_INPUT` bytes is
counted. -/
def Obligations.FtCountCountsSource : Prop :=
  ∀ s : State, SourceServes s → 1 ≤ s.src.length → s.src.length ≤ Config.maxInput →
    exec .ftCount s = .next { s with
      ft := some (countsOf s.src), totalChars := BitVec.ofNat 32 s.src.length,
      nDistinct := BitVec.ofNat 9 (distinctOf s.src), srcPos := s.src.length,
      result := .ok, done := true }

/-- 40_frequency_table.md R130, R132, R133, 20_memory.md R63: no source bound, a read that fails, an
empty source, and a source of 2^32 bytes or more, each with where the position is left. -/
def Obligations.FtCountFailures : Prop :=
  ∀ s : State,
    (s.srcBound = false →
      exec .ftCount s = .next (failureEntry .fileAccessFailure { s with srcPos := 0 })) ∧
    (∀ f, s.srcBound = true → s.srcFailAt = some f → f ≤ s.src.length → f ≤ Config.maxInput →
      exec .ftCount s = .next (failureEntry .fileAccessFailure { s with srcPos := f })) ∧
    (SourceServes s → s.src = [] →
      exec .ftCount s = .next (failureEntry .invalidResource { s with srcPos := 0 })) ∧
    (s.srcBound = true → allows s.srcFailAt (Config.maxInput + 1) = true →
      Config.maxInput < s.src.length →
      exec .ftCount s =
        .next (failureEntry .invalidParameter { s with srcPos := Config.maxInput + 1 }))

/-! The priority queue. -/

/-- 41_priority_queue.md R141: the word of `PQ_INIT` and both outcomes, whatever the state held. -/
def Obligations.PqInitConstructsEmptyQueue : Prop :=
  ∀ (cap : BitVec 16) (s : State),
    decode (0x20#8 ++ 0x00#8 ++ cap ++ 0#32) = .ok (.pqInit cap) ∧
    (1 ≤ cap.toNat → cap.toNat ≤ 256 →
      exec (.pqInit cap) s = .next { s with
        pq := some { cap := BitVec.ofNat 9 cap.toNat, entries := [] },
        result := .ok, done := true }) ∧
    (cap.toNat = 0 ∨ 256 < cap.toNat →
      exec (.pqInit cap) s = .next (failureEntry .invalidParameter s))

/-- 41_priority_queue.md R144, R148: with room, the entry is added, nothing is lost, and the heap
order of 10_state.md R29 is kept. -/
def Obligations.PqInsertKeepsHeap : Prop :=
  ∀ (idx : BitVec 16) (freq : Word32) (s : State) (q : Queue),
    idx.toNat ≤ 511 → s.pq = some q → q.entries.length < q.cap.toNat → HeapOrdered q.entries →
      ∃ h, exec (.pqInsert idx freq) s = .next { s with
            pq := some { q with entries := h }, result := .ok, done := true } ∧
        h.Perm ({ idx := BitVec.ofNat 10 idx.toNat, freq := freq } :: q.entries) ∧
        HeapOrdered h

/-- 41_priority_queue.md R143, "An element equal to its parent does not move": an entry not smaller
than its parent stays where it was appended, and one strictly smaller leaves that place to its
parent. -/
def Obligations.SiftUpSwapsOnlyStrictlyGreater : Prop :=
  ∀ (h : List HeapEntry) (e p : HeapEntry), h ≠ [] → h[(h.length - 1) / 2]? = some p →
    (p.freq.toNat ≤ e.freq.toNat → heapPush h e = h ++ [e]) ∧
    (e.freq.toNat < p.freq.toNat → (heapPush h e)[h.length]? = some p)

/-- 41_priority_queue.md R144, 60_exceptions.md R256: the failures of `PQ_INSERT` in their order. -/
def Obligations.PqInsertFailures : Prop :=
  ∀ (idx : BitVec 16) (freq : Word32) (s : State),
    (511 < idx.toNat →
      exec (.pqInsert idx freq) s = .next (failureEntry .invalidParameter s)) ∧
    (idx.toNat ≤ 511 → s.pq = none →
      exec (.pqInsert idx freq) s = .next (failureEntry .queueNotInitialized s)) ∧
    (∀ q, idx.toNat ≤ 511 → s.pq = some q → q.entries.length = q.cap.toNat →
      exec (.pqInsert idx freq) s = .next (failureEntry .queueSizeExceeded s))

/-- 41_priority_queue.md R146, R147, R148: the two entries of least frequency leave the heap, the
least first, and the rest stays in heap order. -/
def Obligations.PqExtract2TakesTwoSmallest : Prop :=
  ∀ (s : State) (q : Queue), s.pq = some q → 2 ≤ q.entries.length → HeapOrdered q.entries →
    ∃ a b h, exec .pqExtract2 s = .next { s with
          pq := some { q with entries := h }, ex0Idx := a.idx, ex0Freq := a.freq,
          ex1Idx := b.idx, ex1Freq := b.freq, result := .ok, done := true } ∧
      q.entries.Perm (a :: b :: h) ∧ a.freq.toNat ≤ b.freq.toNat ∧
      (∀ e ∈ h, b.freq.toNat ≤ e.freq.toNat) ∧ HeapOrdered h

/-- 41_priority_queue.md R147: the failures of `PQ_EXTRACT2`. -/
def Obligations.PqExtract2Failures : Prop :=
  ∀ s : State,
    (s.pq = none → exec .pqExtract2 s = .next (failureEntry .queueNotInitialized s)) ∧
    (∀ q, s.pq = some q → q.entries.length < 2 →
      exec .pqExtract2 s = .next (failureEntry .invalidArguments s))

/-- 41_priority_queue.md R145, R146, R149 (marked derived): of entries with one frequency the last
of the array comes out second, so the queue is not first-in first-out; an equal left child is
preferred to the right. -/
def Obligations.EqualEntriesLeaveLastSecond : Prop :=
  ∀ (a b c d : HeapEntry), a.freq = b.freq → b.freq = c.freq →
    heapPop [a, b, c] = some (a, [c, b]) ∧
    (c.freq.toNat < d.freq.toNat → heapPop [a, b, c, d] = some (a, [b, d, c]))

/-! The tree builder. -/

/-- 42_tree_builder.md R161, R162: one leaf per byte value that occurs, in ascending byte value; a
new queue of capacity `n_distinct` holding each leaf's index and frequency, pushed in ascending
index, and so in heap order. -/
def Obligations.TbLeavesMakesLeaves : Prop :=
  ∀ (s : State) (ft : FreqTable), s.ft = some ft → s.nDistinct.toNat = distinctCount ft →
    ∃ nodes h, exec .tbLeaves s = .next { s with
          arena := some { nodes := nodes, cap := BitVec.ofNat 10 s.nDistinct.toNat },
          pq := some { cap := s.nDistinct, entries := h }, rootValid := false, code := none,
          result := .ok, done := true } ∧
      nodes.length = distinctCount ft ∧
      (nodes.map fun n => n.sym.toNat).Pairwise (· < ·) ∧
      (∀ b : Byte, tableGet ft b ≠ 0 → ∃ n ∈ nodes, n.sym = b) ∧
      (∀ n ∈ nodes, tableGet ft n.sym ≠ 0 ∧ n = {
        freq := tableGet ft n.sym, sym := n.sym, left := Config.noChild, right := Config.noChild,
        visited := false }) ∧
      h = (nodes.zipIdx.map fun p => { idx := BitVec.ofNat 10 p.2, freq := p.1.freq : HeapEntry }).foldl
        heapPush [] ∧
      h.Perm (nodes.zipIdx.map fun p => { idx := BitVec.ofNat 10 p.2, freq := p.1.freq }) ∧
      HeapOrdered h

/-- 42_tree_builder.md R163 to R167: with the queue's indices in the arena, its frequencies' sum
below 2^32 and room for the nodes it appends, with one doubling of the capacity where
`ARENA_DEPTH` allows it, the builder merges down to one entry, the root, appending
internal nodes only; every node already there keeps its value and index. -/
def Obligations.TbBuildMergesToOneRoot : Prop :=
  ∀ (s : State) (a : Arena) (q : Queue), s.arena = some a → s.pq = some q → ArenaWf a →
    QueueWf q → q.entries ≠ [] → (∀ e ∈ q.entries, e.idx.toNat < a.nodes.length) →
    (q.entries.map fun e => e.freq.toNat).sum < Config.freqBound →
    a.nodes.length + max 1 (q.entries.length - 1) ≤
      (if 2 * a.cap.toNat ≤ Config.arenaDepth then 2 * a.cap.toNat else a.cap.toNat) →
    ∃ a' e r, exec .tbBuild s = .next { s with
          arena := some a', pq := some { q with entries := [e] }, root := e.idx,
          rootValid := true, code := none, result := .ok, done := true } ∧
      a.nodes <+: a'.nodes ∧ ArenaWf a' ∧
      e.freq.toNat = (q.entries.map fun e => e.freq.toNat).sum ∧
      a'.nodes[e.idx.toNat]? = some r ∧ r.isLeaf = false ∧
      (∀ n ∈ a'.nodes.drop a.nodes.length,
        n.sym = 0x00 ∧ n.visited = false ∧ n.isLeaf = false) ∧
      (2 ≤ q.entries.length → a'.nodes.length = a.nodes.length + q.entries.length - 1 ∧
        e.idx.toNat + 1 = a'.nodes.length)

/-- 42_tree_builder.md R165, R167, R169, 70_reset_and_hazards.md R303: with two or more entries, the
two that two removals of the minimum give are merged first, the first out on the left, and the
build goes on from the queue the removals left with the new node's entry pushed. -/
def Obligations.TbBuildMergesTwoMinima : Prop :=
  ∀ (s : State) (a : Arena) (q : Queue) (x y : HeapEntry) (h h' : List HeapEntry),
    s.arena = some a → s.pq = some q → q.entries.length ≤ q.cap.toNat →
    heapPop q.entries = some (x, h) → heapPop h = some (y, h') →
    x.idx.toNat < a.nodes.length → y.idx.toNat < a.nodes.length →
    x.freq.toNat + y.freq.toNat < Config.freqBound →
    (a.nodes.length < a.cap.toNat ∨
      (a.nodes.length = a.cap.toNat ∧ 2 * a.cap.toNat ≤ Config.arenaDepth)) →
    exec .tbBuild s = exec .tbBuild { s with
      arena := some {
        nodes := a.nodes ++ [{ freq := x.freq + y.freq, sym := 0x00, visited := false,
                               left := BitVec.ofNat 16 x.idx.toNat,
                               right := BitVec.ofNat 16 y.idx.toNat }],
        cap := if a.nodes.length = a.cap.toNat then BitVec.ofNat 10 (2 * a.cap.toNat) else a.cap },
      pq := some { q with
        entries := heapPush h' { idx := BitVec.ofNat 10 a.nodes.length,
                                 freq := x.freq + y.freq } } }

/-- 42_tree_builder.md R165, R167, R170 (marked derived): when every queue entry carries its node's
frequency, each two-child node appended has the sum of its children's frequencies, the left child's
being no greater than the right's. -/
def Obligations.TbBuildSumsFrequencies : Prop :=
  ∀ (s t : State) (a a' : Arena) (q : Queue), s.arena = some a → s.pq = some q → ArenaWf a →
    QueueWf q →
    (∀ e ∈ q.entries, ∃ n, a.nodes[e.idx.toNat]? = some n ∧ n.freq = e.freq) →
    exec .tbBuild s = .next t → t.result = .ok → t.arena = some a' →
    ∀ i n, a.nodes.length ≤ i → a'.nodes[i]? = some n → n.right ≠ Config.noChild →
      ∃ l r, a'.nodes[n.left.toNat]? = some l ∧ a'.nodes[n.right.toNat]? = some r ∧
        n.freq.toNat = l.freq.toNat + r.freq.toNat ∧ l.freq.toNat ≤ r.freq.toNat

/-- 42_tree_builder.md R168: one entry that names a leaf gets a one-child root above it, and the
entry is replaced by the root's; one entry that names an internal node is the root as it stands
(95_test_vectors.md V-TB-12). -/
def Obligations.TbBuildSettlesOneEntry : Prop :=
  ∀ (s : State) (a : Arena) (q : Queue) (e : HeapEntry) (n : WorkNode), s.arena = some a →
    s.pq = some q → q.entries = [e] → a.nodes[e.idx.toNat]? = some n → a.cap.toNat ≠ 0 →
    (n.isLeaf = true → a.nodes.length < a.cap.toNat ∨ 2 * a.cap.toNat ≤ Config.arenaDepth →
      a.nodes.length ≤ a.cap.toNat → a.cap.toNat ≤ Config.arenaDepth →
      exec .tbBuild s = .next { s with
        arena := some {
          nodes := a.nodes ++ [{ freq := e.freq, sym := 0x00, visited := false,
                                 left := BitVec.ofNat 16 e.idx.toNat, right := Config.noChild }],
          cap := if a.nodes.length = a.cap.toNat then BitVec.ofNat 10 (2 * a.cap.toNat)
                 else a.cap },
        pq := some { q with entries := [{ idx := BitVec.ofNat 10 a.nodes.length,
                                          freq := e.freq }] },
        root := BitVec.ofNat 10 a.nodes.length, rootValid := true, code := none,
        result := .ok, done := true }) ∧
    (n.isLeaf = false →
      exec .tbBuild s = .next { s with
        root := e.idx, rootValid := true, code := none, result := .ok, done := true })

/-- 42_tree_builder.md R171: the failures of `TB_BUILD` in the order tested; those of a merge after any
number of merges that went well, on a queue of any size, and those of the last entry. -/
def Obligations.TbBuildFailures : Prop :=
  ∀ s : State,
    (arenaCap s = 0 → exec .tbBuild s = .next (failureEntry .invalidArguments s)) ∧
    (arenaCap s ≠ 0 → pqSize s = 0 →
      exec .tbBuild s = .next (failureEntry .queueNotInitialized s)) ∧
    ∀ (k : Nat) (t : State) (a : Arena) (q : Queue), arenaCap s ≠ 0 → mergeTimes k s = some t →
      t.arena = some a → t.pq = some q →
      (∀ x y h h', heapPop q.entries = some (x, h) → heapPop h = some (y, h') →
        (a.nodes.length ≤ x.idx.toNat ∨ a.nodes.length ≤ y.idx.toNat →
          exec .tbBuild s = .next (failureEntry .invalidArguments s)) ∧
        (x.idx.toNat < a.nodes.length → y.idx.toNat < a.nodes.length →
          4294967296 ≤ x.freq.toNat + y.freq.toNat →
          exec .tbBuild s = .next (failureEntry .invalidParameter s)) ∧
        (x.idx.toNat < a.nodes.length → y.idx.toNat < a.nodes.length →
          x.freq.toNat + y.freq.toNat < 4294967296 →
          a.nodes.length = a.cap.toNat → 512 < 2 * a.cap.toNat →
          exec .tbBuild s = .next (failureEntry .memoryAllocationFailure s))) ∧
      (∀ e, q.entries = [e] →
        (a.nodes.length ≤ e.idx.toNat →
          exec .tbBuild s = .next (failureEntry .invalidArguments s)) ∧
        (∀ n, a.nodes[e.idx.toNat]? = some n → n.isLeaf = true →
          a.nodes.length = a.cap.toNat → 512 < 2 * a.cap.toNat →
          exec .tbBuild s = .next (failureEntry .memoryAllocationFailure s)))

/-! The code generator. -/

/-- 43_code_generator.md R181, R185 (its properties marked derived): in a well-formed arena whose
root is no higher than the path store is long, every code is the path from the root to a leaf of
its symbol, every symbol with a leaf below the root gets one, and no code begins another; nothing
else of the arena than the marks changes. -/
def Obligations.CgGenRecordsLeafPaths : Prop :=
  ∀ (s : State) (a : Arena), s.arena = some a → s.rootValid = true → ArenaWf a →
    s.root.toNat < a.nodes.length → (heights a.nodes).getD s.root.toNat 0 ≤ 255 →
    ∃ nodes code, exec .cgGen s = .next { s with
          arena := some { a with nodes := nodes }, code := some code, result := .ok,
          done := true } ∧
      unmarked nodes = unmarked a.nodes ∧
      (∀ b : Byte, tableGet code b ≠ [] →
        leafSym (finalsOf a) s.root.toNat (tableGet code b) = some b) ∧
      (∀ (p : List Bool) (b : Byte), leafSym (finalsOf a) s.root.toNat p = some b →
        tableGet code b ≠ []) ∧
      (∀ b c : Byte, b ≠ c → tableGet code b ≠ [] → ¬ tableGet code b <+: tableGet code c)

/-- 43_code_generator.md R181, R182, 60_exceptions.md R251: in a well-formed arena `CG_GEN` fails with
`INVALID_RESOURCE` exactly when the traversal would push a 256th step below the root, the one that
finds the 256-entry stack and the 255-bit path store full: when a path of 256 steps exists none of
whose nodes is marked before the traversal enters it along the path. -/
def Obligations.CgGenFailsOnLongPath : Prop :=
  ∀ (s : State) (a : Arena), s.arena = some a → s.rootValid = true → ArenaWf a →
    s.root.toNat < a.nodes.length →
    ((∃ p : List Bool, p.length = 256 ∧ FirstReached (finalsOf a) s.root.toNat p) →
      exec .cgGen s = .next (failureEntry .invalidResource s)) ∧
    ((¬ ∃ p : List Bool, p.length = 256 ∧ FirstReached (finalsOf a) s.root.toNat p) →
      ∃ t, exec .cgGen s = .next t ∧ t.result = .ok)

/-! The bit packer and unpacker. -/

/-- 44_bit_packer_unpacker.md R191, R192, 30_encoding.md R106: the codes of the source's bytes, in
order, packed most significant bit first into `ceil(|P| / 8)` bytes behind what the sink held. -/
def Obligations.BpPackAppendsPayload : Prop :=
  ∀ (s : State) (code : CodeTable), s.code = some code → SourceServes s →
    (∀ b ∈ s.src, tableGet code b ≠ []) →
    SinkTakes (packed (s.src.flatMap (tableGet code))).length s →
    exec .bpPack s = .next { s with
      snk := s.snk ++ packed (s.src.flatMap (tableGet code)), srcPos := s.src.length,
      result := .ok, done := true }

/-- 44_bit_packer_unpacker.md R194: the first source byte with no code fails the command, with the
position just after it. -/
def Obligations.BpPackRejectsUncodedByte : Prop :=
  ∀ (s : State) (code : CodeTable) (good : List Byte) (b : Byte) (more : List Byte),
    s.code = some code → s.srcBound = true → allows s.srcFailAt (good.length + 1) = true →
    s.src = good ++ b :: more → (∀ c ∈ good, tableGet code c ≠ []) → tableGet code b = [] →
    s.snkBound = true → s.snkFailAt = none →
    exec .bpPack s =
      .next (failureEntry .invalidResource { s with srcPos := good.length + 1 })

/-- 44_bit_packer_unpacker.md R191, 20_memory.md R63, R65, 60_exceptions.md R251, code 5: no source
bound, a read that fails, and a sink that fails, at a full byte or at the last partial one. -/
def Obligations.BpPackStreamFailures : Prop :=
  ∀ (s : State) (code : CodeTable), s.code = some code →
    let bitsOf (bytes : List Byte) : List Bool := bytes.flatMap (tableGet code)
    (s.srcBound = false →
      exec .bpPack s = .next (failureEntry .fileAccessFailure { s with srcPos := 0 })) ∧
    (∀ f, s.srcBound = true → s.srcFailAt = some f → f ≤ s.src.length →
      (∀ b ∈ s.src.take f, tableGet code b ≠ []) →
      RoomFor ((bitsOf (s.src.take f)).length / 8) s →
      exec .bpPack s = .next (failureEntry .fileAccessFailure { s with srcPos := f })) ∧
    (∀ g p, s.srcBound = true → sinkRoom s = some g → 1 ≤ p → p ≤ s.src.length →
      (∀ b ∈ s.src.take p, tableGet code b ≠ []) →
      (bitsOf (s.src.take (p - 1))).length < 8 * (g + 1) →
      (8 * (g + 1) ≤ (bitsOf (s.src.take p)).length ∧ allows s.srcFailAt p = true ∨
        p = s.src.length ∧ 8 * g < (bitsOf s.src).length ∧
          (bitsOf s.src).length < 8 * (g + 1) ∧ allows s.srcFailAt (p + 1) = true) →
      exec .bpPack s = .next (failureEntry .fileAccessFailure { s with srcPos := p }))

/-- 44_bit_packer_unpacker.md R195 to R197, R199: when the bits from `src_pos` on are paths to
leaves of the held tree, followed by anything, `total_chars` of their symbols go to the sink; no
byte after the one with the last path's last bit is read. -/
def Obligations.BuUnpackWalksPaths : Prop :=
  ∀ (s : State) (nodes : List FinalNode) (paths : List (List Bool)) (syms : List Byte)
    (pad : List Bool),
    s.ftree = some nodes → s.treeSize.toNat = nodes.length →
    paths.map (leafSym nodes (nodes.length - 1)) = syms.map some →
    syms.length = s.totalChars.toNat →
    bitString (s.src.drop s.srcPos) = paths.flatten ++ pad →
    s.srcBound = true → allows s.srcFailAt (s.srcPos + (paths.flatten.length + 7) / 8) = true →
    SinkTakes syms.length s →
    exec .buUnpack s = .next { s with
      snk := s.snk ++ syms, srcPos := s.srcPos + (paths.flatten.length + 7) / 8,
      result := .ok, done := true }

/-- 44_bit_packer_unpacker.md R196, R198: with symbols still to come, `BU_UNPACK` fails with
`UNEXPECTED_END_OF_INPUT` where the source ends, before a walk or in it, and with
`INVALID_RESOURCE` at a bit that selects a missing child, after any number of symbols and steps; the
position is left after the last byte read. -/
def Obligations.BuUnpackFailures : Prop :=
  ∀ (s : State) (nodes : List FinalNode), s.ftree = some nodes → s.srcBound = true →
    (0 < s.totalChars.toNat → s.src.length ≤ s.srcPos → allows s.srcFailAt (s.srcPos + 1) = true →
      exec .buUnpack s = .next (failureEntry .unexpectedEndOfInput s)) ∧
    (∀ (paths : List (List Bool)) (syms : List Byte) (rest : List Bool) (n : FinalNode),
      s.treeSize.toNat = nodes.length →
      paths.map (leafSym nodes (nodes.length - 1)) = syms.map some →
      syms.length < s.totalChars.toNat → RoomFor syms.length s →
      bitString (s.src.drop s.srcPos) = paths.flatten ++ rest →
      midway nodes (nodes.length - 1) rest = some n →
      s.srcPos ≤ s.src.length → allows s.srcFailAt (s.src.length + 1) = true →
      exec .buUnpack s =
        .next (failureEntry .unexpectedEndOfInput { s with srcPos := s.src.length })) ∧
    (∀ (paths : List (List Bool)) (syms : List Byte) (steps more : List Bool) (bit : Bool)
      (n : FinalNode), s.treeSize.toNat = nodes.length →
      paths.map (leafSym nodes (nodes.length - 1)) = syms.map some →
      syms.length < s.totalChars.toNat → RoomFor syms.length s →
      bitString (s.src.drop s.srcPos) = paths.flatten ++ steps ++ bit :: more →
      midway nodes (nodes.length - 1) steps = some n →
      (if bit then n.right else n.left) = Config.noChild →
      allows s.srcFailAt (s.srcPos + (paths.flatten.length + steps.length + 8) / 8) = true →
      exec .buUnpack s = .next (failureEntry .invalidResource { s with
        srcPos := s.srcPos + (paths.flatten.length + steps.length + 8) / 8 }))

/-- 44_bit_packer_unpacker.md R196, 20_memory.md R63, R65, 60_exceptions.md R251, code 5: with symbols
still to come, no source bound, a read that fails before or in a walk, and a sink that fails at a
symbol. -/
def Obligations.BuUnpackStreamFailures : Prop :=
  ∀ (s : State) (nodes : List FinalNode), s.ftree = some nodes → 0 < s.totalChars.toNat →
    (s.srcBound = false ∨ allows s.srcFailAt (s.srcPos + 1) = false →
      exec .buUnpack s = .next (failureEntry .fileAccessFailure s)) ∧
    (∀ (f : Nat) (paths : List (List Bool)) (syms : List Byte) (rest : List Bool) (n : FinalNode),
      s.srcBound = true → s.srcFailAt = some f → s.srcPos ≤ f → f ≤ s.src.length →
      s.treeSize.toNat = nodes.length →
      paths.map (leafSym nodes (nodes.length - 1)) = syms.map some →
      syms.length < s.totalChars.toNat → RoomFor syms.length s →
      bitString ((s.src.drop s.srcPos).take (f - s.srcPos)) = paths.flatten ++ rest →
      midway nodes (nodes.length - 1) rest = some n →
      exec .buUnpack s = .next (failureEntry .fileAccessFailure { s with srcPos := f })) ∧
    (∀ (g : Nat) (paths : List (List Bool)) (syms : List Byte) (pad : List Bool),
      s.srcBound = true → s.treeSize.toNat = nodes.length →
      paths.map (leafSym nodes (nodes.length - 1)) = syms.map some →
      sinkRoom s = some g → syms.length = g + 1 → g < s.totalChars.toNat →
      bitString (s.src.drop s.srcPos) = paths.flatten ++ pad →
      allows s.srcFailAt (s.srcPos + (paths.flatten.length + 7) / 8) = true →
      exec .buUnpack s = .next (failureEntry .fileAccessFailure { s with
        srcPos := s.srcPos + (paths.flatten.length + 7) / 8 }))

/-- 10_state.md R43 with log 6: while `tree_size` is the size of the tree held and its children are
in range, as `SER_READ` leaves them, no free value is met: the counter the free values are applied
to makes no difference. -/
def Obligations.BuUnpackMeetsNoFreeValue : Prop :=
  ∀ (s t : State) (nodes : List FinalNode) (c : Nat), s.ftree = some nodes → FtreeWf nodes →
    s.treeSize.toNat = nodes.length → exec .buUnpack s = .next t →
    exec .buUnpack { s with freeCtr := c } = .next { t with freeCtr := c }

/-! The serializer. -/

/-- 45_serializer.md R210, R211, 30_encoding.md R100 to R104: header and records, root first, behind
what the sink held. -/
def Obligations.SerWriteWritesHeaderAndTree : Prop :=
  ∀ (s : State) (a : Arena), s.arena = some a → s.ft ≠ none → s.rootValid = true →
    s.root.toNat + 1 = a.nodes.length →
    SinkTakes (fileHead s.totalChars.toNat (finalsOf a)).length s →
    exec .serWrite s = .next { s with
      treeSize := BitVec.ofNat 16 a.nodes.length,
      snk := s.snk ++ fileHead s.totalChars.toNat (finalsOf a), result := .ok, done := true }

/-- 45_serializer.md R211, 20_memory.md R65: a sink that is not bound or does not take all of it
fails the command, with `tree_size` already written. -/
def Obligations.SerWriteSinkFailure : Prop :=
  ∀ (s : State) (a : Arena), s.arena = some a → s.ft ≠ none → s.rootValid = true →
    s.root.toNat + 1 = a.nodes.length →
    ¬ SinkTakes (fileHead s.totalChars.toNat (finalsOf a)).length s →
    exec .serWrite s = .next (failureEntry .fileAccessFailure
      { s with treeSize := BitVec.ofNat 16 a.nodes.length })

/-- 45_serializer.md R216, R217: a source that begins with the header and records of a node array
whose children are in range loads that array, whatever follows. -/
def Obligations.SerReadLoadsTree : Prop :=
  ∀ (s : State) (n : Nat) (nodes : List FinalNode) (more : List Byte), s.srcBound = true →
    s.src = fileHead n nodes ++ more → 2 ≤ n → n < 4294967296 → FtreeWf nodes →
    allows s.srcFailAt (6 + 5 * nodes.length) = true →
    exec .serRead s = .next { s with
      totalChars := BitVec.ofNat 32 n, treeSize := BitVec.ofNat 16 nodes.length,
      ftree := some nodes, srcPos := 6 + 5 * nodes.length, result := .ok, done := true }

/-- 45_serializer.md R218: both fields are read before either is tested; too small a count or size,
or a size above 511, is `INVALID_RESOURCE`, and a source shorter than the header is
`UNEXPECTED_END_OF_INPUT` whatever its bytes say. -/
def Obligations.SerReadChecksHeader : Prop :=
  ∀ s : State, s.srcBound = true →
    (∀ n t more, s.src = littleEndian 4 n ++ littleEndian 2 t ++ more → n < 4294967296 →
      t < 65536 → allows s.srcFailAt 6 = true → n < 2 ∨ t < 2 ∨ 511 < t →
      exec .serRead s = .next (failureEntry .invalidResource { s with
        totalChars := BitVec.ofNat 32 n, treeSize := BitVec.ofNat 16 t, srcPos := 6 })) ∧
    (s.src.length < 6 → allows s.srcFailAt (s.src.length + 1) = true →
      exec .serRead s =
        .next (failureEntry .unexpectedEndOfInput { s with srcPos := s.src.length }))

/-- 45_serializer.md R219: after all records are loaded, a child that is neither -1 nor an index of
the tree is `INVALID_RESOURCE`. -/
def Obligations.SerReadChecksChildren : Prop :=
  ∀ (s : State) (n : Nat) (nodes : List FinalNode) (more : List Byte) (bad : FinalNode),
    s.srcBound = true → s.src = fileHead n nodes ++ more → 2 ≤ n → n < 4294967296 →
    2 ≤ nodes.length → nodes.length ≤ 511 → allows s.srcFailAt (6 + 5 * nodes.length) = true →
    bad ∈ nodes →
    (¬ (bad.left.toInt = -1 ∨ (0 ≤ bad.left.toInt ∧ bad.left.toInt < nodes.length)) ∨
      ¬ (bad.right.toInt = -1 ∨ (0 ≤ bad.right.toInt ∧ bad.right.toInt < nodes.length))) →
    exec .serRead s = .next (failureEntry .invalidResource { s with
      totalChars := BitVec.ofNat 32 n, treeSize := BitVec.ofNat 16 nodes.length,
      srcPos := 6 + 5 * nodes.length })

/-- 45_serializer.md R216, R219, 60_exceptions.md R251, codes 5 and 6: a source cut inside the node
records is `UNEXPECTED_END_OF_INPUT`, in range or not, with both registers written; no source bound,
a read that fails in the header (neither register written) and one that fails in the records (both
written) are `FILE_ACCESS_FAILURE`. -/
def Obligations.SerReadTruncatedTree : Prop :=
  ∀ s : State,
    (∀ (n k : Nat) (nodes : List FinalNode), s.srcBound = true →
      s.src = (fileHead n nodes).take k → 6 ≤ k → k < 6 + 5 * nodes.length → 2 ≤ n →
      n < 4294967296 → 2 ≤ nodes.length → nodes.length ≤ 511 →
      allows s.srcFailAt (k + 1) = true →
      exec .serRead s = .next (failureEntry .unexpectedEndOfInput { s with
        totalChars := BitVec.ofNat 32 n, treeSize := BitVec.ofNat 16 nodes.length,
        srcPos := k })) ∧
    (s.srcBound = false →
      exec .serRead s = .next (failureEntry .fileAccessFailure { s with srcPos := 0 })) ∧
    (∀ f, s.srcBound = true → s.srcFailAt = some f → f < 6 → f ≤ s.src.length →
      exec .serRead s = .next (failureEntry .fileAccessFailure { s with srcPos := f })) ∧
    (∀ f n t more, s.srcBound = true → s.srcFailAt = some f → 6 ≤ f → f < 6 + 5 * t →
      f ≤ s.src.length → s.src = littleEndian 4 n ++ littleEndian 2 t ++ more → 2 ≤ n →
      n < 4294967296 → 2 ≤ t → t ≤ 511 →
      exec .serRead s = .next (failureEntry .fileAccessFailure { s with
        totalChars := BitVec.ofNat 32 n, treeSize := BitVec.ofNat 16 t, srcPos := f }))

/-! The whole. -/

/-- 46_top_level.md R236: the word of `RELEASE`; it clears the six flags and touches nothing else but
`result` and `done`. -/
def Obligations.ReleaseDropsSession : Prop :=
  decode 0xF000000000000000#64 = .ok .release ∧
  ∀ s : State, exec .release s = .next { s with
    ft := none, arena := none, pq := none, rootValid := false, code := none, ftree := none,
    result := .ok, done := true }

/-- 46_top_level.md R232 and 30_encoding.md R110 (both marked derived): what `COMPRESS` leaves on a
readable source of 1 to 2^32 - 1 bytes and a sink that takes the file, as one with no failure point
does: the file of a node array whose leaves stand first in ascending symbol order and whose other
nodes have symbol 0 and children at smaller indices, in which each source byte's code is the path
from the last node to its leaf, and then those codes packed. The array and the codes are those of
the source, whatever the sink. -/
def Obligations.CompressWritesFile : Prop :=
  ∀ s : State, SourceServes s → 1 ≤ s.src.length → s.src.length ≤ Config.maxInput →
    s.snkBound = true →
    ∃ (nodes : List FinalNode) (code : CodeTable),
      (allows s.snkFailAt
          (fileHead s.src.length nodes ++ packed (s.src.flatMap (tableGet code))).length = true →
        exec .compress s = .next { s with
          ft := none, arena := none, pq := none, rootValid := false, code := none, ftree := none,
          totalChars := BitVec.ofNat 32 s.src.length, treeSize := BitVec.ofNat 16 nodes.length,
          nDistinct := BitVec.ofNat 9 (distinctOf s.src),
          root := BitVec.ofNat 10 (nodes.length - 1), srcPos := s.src.length,
          snk := fileHead s.src.length nodes ++ packed (s.src.flatMap (tableGet code)),
          result := .ok, done := true }) ∧
      nodes.length = (if distinctOf s.src = 1 then 2 else 2 * distinctOf s.src - 1) ∧
      (nodes.take (distinctOf s.src)).map (fun n => n.sym) =
        ((List.range 256).map (BitVec.ofNat 8)).filter (fun b => s.src.contains b) ∧
      (∀ n ∈ nodes.take (distinctOf s.src), n.isLeaf = true) ∧
      (∀ i n, distinctOf s.src ≤ i → nodes[i]? = some n →
        n.sym = 0x00 ∧ n.isLeaf = false ∧ n.left.toNat < i ∧
          (if distinctOf s.src = 1 then n.right = Config.noChild else n.right.toNat < i)) ∧
      (∀ b ∈ s.src, leafSym nodes (nodes.length - 1) (tableGet code b) = some b)

/-- 46_top_level.md R240 (its impossibilities marked derived): `COMPRESS` answers from every state,
and its only failures are `FILE_ACCESS_FAILURE`, `INVALID_RESOURCE` on an empty source and
`INVALID_PARAMETER` on one of 2^32 bytes or more. -/
def Obligations.CompressFailureKinds : Prop :=
  ∀ s : State, ∃ t, exec .compress s = .next t ∧
    (t.result = .ok ∨ t.result = .error .fileAccessFailure ∨
      (t.result = .error .invalidResource ∧ s.src = []) ∨
      (t.result = .error .invalidParameter ∧ Config.maxInput < s.src.length))

/-- 46_top_level.md R233: `DECOMPRESS` of a file whose records load and whose payload begins with
`total_chars` leaf paths writes their symbols. -/
def Obligations.DecompressWritesSymbols : Prop :=
  ∀ (s : State) (nodes : List FinalNode) (payload : List Byte) (paths : List (List Bool))
    (syms : List Byte) (pad : List Bool), s.srcBound = true →
    s.src = fileHead syms.length nodes ++ payload → 2 ≤ syms.length → syms.length < 4294967296 →
    FtreeWf nodes → paths.map (leafSym nodes (nodes.length - 1)) = syms.map some →
    bitString payload = paths.flatten ++ pad →
    allows s.srcFailAt (6 + 5 * nodes.length + (paths.flatten.length + 7) / 8) = true →
    s.snkBound = true → allows s.snkFailAt syms.length = true →
    exec .decompress s = .next { s with
      ft := none, arena := none, pq := none, rootValid := false, code := none, ftree := none,
      totalChars := BitVec.ofNat 32 syms.length, treeSize := BitVec.ofNat 16 nodes.length,
      srcPos := 6 + 5 * nodes.length + (paths.flatten.length + 7) / 8, snk := syms,
      result := .ok, done := true }

/-- 46_top_level.md R235, R241 (marked derived): `DECOMPRESS` answers from every state, with one of
three failures or with exactly `total_chars` bytes in the sink. -/
def Obligations.DecompressOutcomes : Prop :=
  ∀ s : State, ∃ t, exec .decompress s = .next t ∧
    ((t.result = .ok ∧ t.snk.length = t.totalChars.toNat) ∨
      t.result = .error .fileAccessFailure ∨ t.result = .error .unexpectedEndOfInput ∨
      t.result = .error .invalidResource)

/-- 46_top_level.md R237 (marked derived): the round trip, for 2 to 2^32 - 1 bytes. -/
def Obligations.DecompressUndoesCompress : Prop :=
  ∀ s : State, SourceServes s → 2 ≤ s.src.length → s.src.length ≤ Config.maxInput →
    s.snkBound = true → s.snkFailAt = none →
    ∃ t, exec .compress s = .next t ∧ t.result = .ok ∧
      ∀ u : State, u.srcBound = true → u.src = t.snk → allows u.srcFailAt t.snk.length = true →
        u.snkBound = true → allows u.snkFailAt s.src.length = true →
        ∃ v, exec .decompress u = .next v ∧ v.result = .ok ∧ v.snk = s.src

/-- 46_top_level.md R237 (marked derived), 70_reset_and_hazards.md R306, 90_conflicts.md C4: a
one-byte input compresses, and its file is rejected. -/
def Obligations.OneByteFileIsRejected : Prop :=
  ∀ (s : State) (b : Byte), SourceServes s → s.src = [b] → s.snkBound = true →
    s.snkFailAt = none →
    ∃ t, exec .compress s = .next t ∧ t.result = .ok ∧
      ∀ u : State, u.srcBound = true → u.src = t.snk → allows u.srcFailAt 6 = true →
        ∃ v, exec .decompress u = .next v ∧ v.result = .error .invalidResource

/-- 46_top_level.md R238 (marked derived), 42_tree_builder.md R168: the file of one byte value
repeated. -/
def Obligations.SingleSymbolFile : Prop :=
  ∀ (s : State) (n : Nat) (b : Byte), SourceServes s → s.src = List.replicate n b → 1 ≤ n →
    n ≤ Config.maxInput → s.snkBound = true → s.snkFailAt = none →
    ∃ t, exec .compress s = .next t ∧ t.result = .ok ∧
      t.snk = littleEndian 4 n ++ [0x02, 0x00] ++ [0x00, 0x00, 0x00, 0xFF, 0xFF] ++
        [b, 0xFF, 0xFF, 0xFF, 0xFF] ++ List.replicate ((n + 7) / 8) 0x00

/-- 46_top_level.md R239 (marked derived): what `COMPRESS` leaves depends on the streams alone, not
on what any command before it left: the result, the position, the sink where one is bound, and
after success the four information registers. -/
def Obligations.CompressForgetsThePast : Prop :=
  ∀ s u t : State, u.srcBound = s.srcBound → u.src = s.src → u.srcFailAt = s.srcFailAt →
    u.snkBound = s.snkBound → u.snkFailAt = s.snkFailAt → exec .compress s = .next t →
    ∃ v, exec .compress u = .next v ∧ v.result = t.result ∧ v.srcPos = t.srcPos ∧
      (s.snkBound = true → v.snk = t.snk) ∧
      (t.result = .ok → v.totalChars = t.totalChars ∧ v.treeSize = t.treeSize ∧
        v.nDistinct = t.nDistinct ∧ v.root = t.root)

/-- 46_top_level.md R231, 30_encoding.md R98: on an empty sink `COMPRESS` leaves the sink and the
first result that is not `OK` of the host sequence of its stages between two releases. -/
def Obligations.CompressIsItsStages : Prop :=
  ∀ s : State, s.snk = [] →
    ∃ t u, exec .compress s = .next t ∧
      issueAll [.release, .ftCount, .tbLeaves, .tbBuild, .cgGen, .serWrite, .bpPack, .release] s
        = .next u ∧
      t.snk = u.snk ∧ t.result = u.result

/-- 46_top_level.md R234 (marked derived), 30_encoding.md R98: the same of `DECOMPRESS`. -/
def Obligations.DecompressIsItsStages : Prop :=
  ∀ s : State, s.snk = [] →
    ∃ t u, exec .decompress s = .next t ∧
      issueAll [.release, .serRead, .buUnpack, .release] s = .next u ∧
      t.snk = u.snk ∧ t.result = u.result
end

