-- ==== Sys2Proof/Laws/State.lean ====
section
/-! SUPPORT. One lemma per field per update of the state, so that no later proof unfolds one. -/

namespace Sys2Proof.Machine

@[simp] theorem srcRewind_result (s : State) : (srcRewind s).result = s.result := rfl
@[simp] theorem srcRewind_done (s : State) : (srcRewind s).done = s.done := rfl
@[simp] theorem srcRewind_totalChars (s : State) : (srcRewind s).totalChars = s.totalChars := rfl
@[simp] theorem srcRewind_treeSize (s : State) : (srcRewind s).treeSize = s.treeSize := rfl
@[simp] theorem srcRewind_nDistinct (s : State) : (srcRewind s).nDistinct = s.nDistinct := rfl
@[simp] theorem srcRewind_root (s : State) : (srcRewind s).root = s.root := rfl
@[simp] theorem srcRewind_ex0Idx (s : State) : (srcRewind s).ex0Idx = s.ex0Idx := rfl
@[simp] theorem srcRewind_ex0Freq (s : State) : (srcRewind s).ex0Freq = s.ex0Freq := rfl
@[simp] theorem srcRewind_ex1Idx (s : State) : (srcRewind s).ex1Idx = s.ex1Idx := rfl
@[simp] theorem srcRewind_ex1Freq (s : State) : (srcRewind s).ex1Freq = s.ex1Freq := rfl
@[simp] theorem srcRewind_ft (s : State) : (srcRewind s).ft = s.ft := rfl
@[simp] theorem srcRewind_arena (s : State) : (srcRewind s).arena = s.arena := rfl
@[simp] theorem srcRewind_pq (s : State) : (srcRewind s).pq = s.pq := rfl
@[simp] theorem srcRewind_rootValid (s : State) : (srcRewind s).rootValid = s.rootValid := rfl
@[simp] theorem srcRewind_code (s : State) : (srcRewind s).code = s.code := rfl
@[simp] theorem srcRewind_ftree (s : State) : (srcRewind s).ftree = s.ftree := rfl
@[simp] theorem srcRewind_srcBound (s : State) : (srcRewind s).srcBound = s.srcBound := rfl
@[simp] theorem srcRewind_src (s : State) : (srcRewind s).src = s.src := rfl
@[simp] theorem srcRewind_srcFailAt (s : State) : (srcRewind s).srcFailAt = s.srcFailAt := rfl
@[simp] theorem srcRewind_srcPos (s : State) : (srcRewind s).srcPos = 0 := rfl
@[simp] theorem srcRewind_snkBound (s : State) : (srcRewind s).snkBound = s.snkBound := rfl
@[simp] theorem srcRewind_snk (s : State) : (srcRewind s).snk = s.snk := rfl
@[simp] theorem srcRewind_snkFailAt (s : State) : (srcRewind s).snkFailAt = s.snkFailAt := rfl
@[simp] theorem srcRewind_hostq (s : State) : (srcRewind s).hostq = s.hostq := rfl
@[simp] theorem srcRewind_reply (s : State) : (srcRewind s).reply = s.reply := rfl
@[simp] theorem srcRewind_freeCtr (s : State) : (srcRewind s).freeCtr = s.freeCtr := rfl

@[simp] theorem releaseAll_result (s : State) : (releaseAll s).result = s.result := rfl
@[simp] theorem releaseAll_done (s : State) : (releaseAll s).done = s.done := rfl
@[simp] theorem releaseAll_totalChars (s : State) : (releaseAll s).totalChars = s.totalChars := rfl
@[simp] theorem releaseAll_treeSize (s : State) : (releaseAll s).treeSize = s.treeSize := rfl
@[simp] theorem releaseAll_nDistinct (s : State) : (releaseAll s).nDistinct = s.nDistinct := rfl
@[simp] theorem releaseAll_root (s : State) : (releaseAll s).root = s.root := rfl
@[simp] theorem releaseAll_ex0Idx (s : State) : (releaseAll s).ex0Idx = s.ex0Idx := rfl
@[simp] theorem releaseAll_ex0Freq (s : State) : (releaseAll s).ex0Freq = s.ex0Freq := rfl
@[simp] theorem releaseAll_ex1Idx (s : State) : (releaseAll s).ex1Idx = s.ex1Idx := rfl
@[simp] theorem releaseAll_ex1Freq (s : State) : (releaseAll s).ex1Freq = s.ex1Freq := rfl
@[simp] theorem releaseAll_ft (s : State) : (releaseAll s).ft = none := rfl
@[simp] theorem releaseAll_arena (s : State) : (releaseAll s).arena = none := rfl
@[simp] theorem releaseAll_pq (s : State) : (releaseAll s).pq = none := rfl
@[simp] theorem releaseAll_rootValid (s : State) : (releaseAll s).rootValid = false := rfl
@[simp] theorem releaseAll_code (s : State) : (releaseAll s).code = none := rfl
@[simp] theorem releaseAll_ftree (s : State) : (releaseAll s).ftree = none := rfl
@[simp] theorem releaseAll_srcBound (s : State) : (releaseAll s).srcBound = s.srcBound := rfl
@[simp] theorem releaseAll_src (s : State) : (releaseAll s).src = s.src := rfl
@[simp] theorem releaseAll_srcFailAt (s : State) : (releaseAll s).srcFailAt = s.srcFailAt := rfl
@[simp] theorem releaseAll_srcPos (s : State) : (releaseAll s).srcPos = s.srcPos := rfl
@[simp] theorem releaseAll_snkBound (s : State) : (releaseAll s).snkBound = s.snkBound := rfl
@[simp] theorem releaseAll_snk (s : State) : (releaseAll s).snk = s.snk := rfl
@[simp] theorem releaseAll_snkFailAt (s : State) : (releaseAll s).snkFailAt = s.snkFailAt := rfl
@[simp] theorem releaseAll_hostq (s : State) : (releaseAll s).hostq = s.hostq := rfl
@[simp] theorem releaseAll_reply (s : State) : (releaseAll s).reply = s.reply := rfl
@[simp] theorem releaseAll_freeCtr (s : State) : (releaseAll s).freeCtr = s.freeCtr := rfl

@[simp] theorem complete_result (s : State) : (complete s).result = .ok := rfl
@[simp] theorem complete_done (s : State) : (complete s).done = true := rfl
@[simp] theorem complete_totalChars (s : State) : (complete s).totalChars = s.totalChars := rfl
@[simp] theorem complete_treeSize (s : State) : (complete s).treeSize = s.treeSize := rfl
@[simp] theorem complete_nDistinct (s : State) : (complete s).nDistinct = s.nDistinct := rfl
@[simp] theorem complete_root (s : State) : (complete s).root = s.root := rfl
@[simp] theorem complete_ex0Idx (s : State) : (complete s).ex0Idx = s.ex0Idx := rfl
@[simp] theorem complete_ex0Freq (s : State) : (complete s).ex0Freq = s.ex0Freq := rfl
@[simp] theorem complete_ex1Idx (s : State) : (complete s).ex1Idx = s.ex1Idx := rfl
@[simp] theorem complete_ex1Freq (s : State) : (complete s).ex1Freq = s.ex1Freq := rfl
@[simp] theorem complete_ft (s : State) : (complete s).ft = s.ft := rfl
@[simp] theorem complete_arena (s : State) : (complete s).arena = s.arena := rfl
@[simp] theorem complete_pq (s : State) : (complete s).pq = s.pq := rfl
@[simp] theorem complete_rootValid (s : State) : (complete s).rootValid = s.rootValid := rfl
@[simp] theorem complete_code (s : State) : (complete s).code = s.code := rfl
@[simp] theorem complete_ftree (s : State) : (complete s).ftree = s.ftree := rfl
@[simp] theorem complete_srcBound (s : State) : (complete s).srcBound = s.srcBound := rfl
@[simp] theorem complete_src (s : State) : (complete s).src = s.src := rfl
@[simp] theorem complete_srcFailAt (s : State) : (complete s).srcFailAt = s.srcFailAt := rfl
@[simp] theorem complete_srcPos (s : State) : (complete s).srcPos = s.srcPos := rfl
@[simp] theorem complete_snkBound (s : State) : (complete s).snkBound = s.snkBound := rfl
@[simp] theorem complete_snk (s : State) : (complete s).snk = s.snk := rfl
@[simp] theorem complete_snkFailAt (s : State) : (complete s).snkFailAt = s.snkFailAt := rfl
@[simp] theorem complete_hostq (s : State) : (complete s).hostq = s.hostq := rfl
@[simp] theorem complete_reply (s : State) : (complete s).reply = s.reply := rfl
@[simp] theorem complete_freeCtr (s : State) : (complete s).freeCtr = s.freeCtr := rfl

@[simp] theorem answer_result (r : HostReply) (s : State) : (answer r s).result = s.result := rfl
@[simp] theorem answer_done (r : HostReply) (s : State) : (answer r s).done = s.done := rfl
@[simp] theorem answer_totalChars (r : HostReply) (s : State) : (answer r s).totalChars = s.totalChars := rfl
@[simp] theorem answer_treeSize (r : HostReply) (s : State) : (answer r s).treeSize = s.treeSize := rfl
@[simp] theorem answer_nDistinct (r : HostReply) (s : State) : (answer r s).nDistinct = s.nDistinct := rfl
@[simp] theorem answer_root (r : HostReply) (s : State) : (answer r s).root = s.root := rfl
@[simp] theorem answer_ex0Idx (r : HostReply) (s : State) : (answer r s).ex0Idx = s.ex0Idx := rfl
@[simp] theorem answer_ex0Freq (r : HostReply) (s : State) : (answer r s).ex0Freq = s.ex0Freq := rfl
@[simp] theorem answer_ex1Idx (r : HostReply) (s : State) : (answer r s).ex1Idx = s.ex1Idx := rfl
@[simp] theorem answer_ex1Freq (r : HostReply) (s : State) : (answer r s).ex1Freq = s.ex1Freq := rfl
@[simp] theorem answer_ft (r : HostReply) (s : State) : (answer r s).ft = s.ft := rfl
@[simp] theorem answer_arena (r : HostReply) (s : State) : (answer r s).arena = s.arena := rfl
@[simp] theorem answer_pq (r : HostReply) (s : State) : (answer r s).pq = s.pq := rfl
@[simp] theorem answer_rootValid (r : HostReply) (s : State) : (answer r s).rootValid = s.rootValid := rfl
@[simp] theorem answer_code (r : HostReply) (s : State) : (answer r s).code = s.code := rfl
@[simp] theorem answer_ftree (r : HostReply) (s : State) : (answer r s).ftree = s.ftree := rfl
@[simp] theorem answer_srcBound (r : HostReply) (s : State) : (answer r s).srcBound = s.srcBound := rfl
@[simp] theorem answer_src (r : HostReply) (s : State) : (answer r s).src = s.src := rfl
@[simp] theorem answer_srcFailAt (r : HostReply) (s : State) : (answer r s).srcFailAt = s.srcFailAt := rfl
@[simp] theorem answer_srcPos (r : HostReply) (s : State) : (answer r s).srcPos = s.srcPos := rfl
@[simp] theorem answer_snkBound (r : HostReply) (s : State) : (answer r s).snkBound = s.snkBound := rfl
@[simp] theorem answer_snk (r : HostReply) (s : State) : (answer r s).snk = s.snk := rfl
@[simp] theorem answer_snkFailAt (r : HostReply) (s : State) : (answer r s).snkFailAt = s.snkFailAt := rfl
@[simp] theorem answer_hostq (r : HostReply) (s : State) : (answer r s).hostq = s.hostq := rfl
@[simp] theorem answer_reply (r : HostReply) (s : State) : (answer r s).reply = r := rfl
@[simp] theorem answer_freeCtr (r : HostReply) (s : State) : (answer r s).freeCtr = s.freeCtr := rfl

@[simp] theorem bindSource_result (bs : List Byte) (f : Option Nat) (s : State) : (bindSource bs f s).result = s.result := rfl
@[simp] theorem bindSource_done (bs : List Byte) (f : Option Nat) (s : State) : (bindSource bs f s).done = s.done := rfl
@[simp] theorem bindSource_totalChars (bs : List Byte) (f : Option Nat) (s : State) : (bindSource bs f s).totalChars = s.totalChars := rfl
@[simp] theorem bindSource_treeSize (bs : List Byte) (f : Option Nat) (s : State) : (bindSource bs f s).treeSize = s.treeSize := rfl
@[simp] theorem bindSource_nDistinct (bs : List Byte) (f : Option Nat) (s : State) : (bindSource bs f s).nDistinct = s.nDistinct := rfl
@[simp] theorem bindSource_root (bs : List Byte) (f : Option Nat) (s : State) : (bindSource bs f s).root = s.root := rfl
@[simp] theorem bindSource_ex0Idx (bs : List Byte) (f : Option Nat) (s : State) : (bindSource bs f s).ex0Idx = s.ex0Idx := rfl
@[simp] theorem bindSource_ex0Freq (bs : List Byte) (f : Option Nat) (s : State) : (bindSource bs f s).ex0Freq = s.ex0Freq := rfl
@[simp] theorem bindSource_ex1Idx (bs : List Byte) (f : Option Nat) (s : State) : (bindSource bs f s).ex1Idx = s.ex1Idx := rfl
@[simp] theorem bindSource_ex1Freq (bs : List Byte) (f : Option Nat) (s : State) : (bindSource bs f s).ex1Freq = s.ex1Freq := rfl
@[simp] theorem bindSource_ft (bs : List Byte) (f : Option Nat) (s : State) : (bindSource bs f s).ft = s.ft := rfl
@[simp] theorem bindSource_arena (bs : List Byte) (f : Option Nat) (s : State) : (bindSource bs f s).arena = s.arena := rfl
@[simp] theorem bindSource_pq (bs : List Byte) (f : Option Nat) (s : State) : (bindSource bs f s).pq = s.pq := rfl
@[simp] theorem bindSource_rootValid (bs : List Byte) (f : Option Nat) (s : State) : (bindSource bs f s).rootValid = s.rootValid := rfl
@[simp] theorem bindSource_code (bs : List Byte) (f : Option Nat) (s : State) : (bindSource bs f s).code = s.code := rfl
@[simp] theorem bindSource_ftree (bs : List Byte) (f : Option Nat) (s : State) : (bindSource bs f s).ftree = s.ftree := rfl
@[simp] theorem bindSource_srcBound (bs : List Byte) (f : Option Nat) (s : State) : (bindSource bs f s).srcBound = true := rfl
@[simp] theorem bindSource_src (bs : List Byte) (f : Option Nat) (s : State) : (bindSource bs f s).src = bs := rfl
@[simp] theorem bindSource_srcFailAt (bs : List Byte) (f : Option Nat) (s : State) : (bindSource bs f s).srcFailAt = f := rfl
@[simp] theorem bindSource_srcPos (bs : List Byte) (f : Option Nat) (s : State) : (bindSource bs f s).srcPos = 0 := rfl
@[simp] theorem bindSource_snkBound (bs : List Byte) (f : Option Nat) (s : State) : (bindSource bs f s).snkBound = s.snkBound := rfl
@[simp] theorem bindSource_snk (bs : List Byte) (f : Option Nat) (s : State) : (bindSource bs f s).snk = s.snk := rfl
@[simp] theorem bindSource_snkFailAt (bs : List Byte) (f : Option Nat) (s : State) : (bindSource bs f s).snkFailAt = s.snkFailAt := rfl
@[simp] theorem bindSource_hostq (bs : List Byte) (f : Option Nat) (s : State) : (bindSource bs f s).hostq = s.hostq := rfl
@[simp] theorem bindSource_reply (bs : List Byte) (f : Option Nat) (s : State) : (bindSource bs f s).reply = s.reply := rfl
@[simp] theorem bindSource_freeCtr (bs : List Byte) (f : Option Nat) (s : State) : (bindSource bs f s).freeCtr = s.freeCtr := rfl

@[simp] theorem bindSink_result (g : Option Nat) (s : State) : (bindSink g s).result = s.result := rfl
@[simp] theorem bindSink_done (g : Option Nat) (s : State) : (bindSink g s).done = s.done := rfl
@[simp] theorem bindSink_totalChars (g : Option Nat) (s : State) : (bindSink g s).totalChars = s.totalChars := rfl
@[simp] theorem bindSink_treeSize (g : Option Nat) (s : State) : (bindSink g s).treeSize = s.treeSize := rfl
@[simp] theorem bindSink_nDistinct (g : Option Nat) (s : State) : (bindSink g s).nDistinct = s.nDistinct := rfl
@[simp] theorem bindSink_root (g : Option Nat) (s : State) : (bindSink g s).root = s.root := rfl
@[simp] theorem bindSink_ex0Idx (g : Option Nat) (s : State) : (bindSink g s).ex0Idx = s.ex0Idx := rfl
@[simp] theorem bindSink_ex0Freq (g : Option Nat) (s : State) : (bindSink g s).ex0Freq = s.ex0Freq := rfl
@[simp] theorem bindSink_ex1Idx (g : Option Nat) (s : State) : (bindSink g s).ex1Idx = s.ex1Idx := rfl
@[simp] theorem bindSink_ex1Freq (g : Option Nat) (s : State) : (bindSink g s).ex1Freq = s.ex1Freq := rfl
@[simp] theorem bindSink_ft (g : Option Nat) (s : State) : (bindSink g s).ft = s.ft := rfl
@[simp] theorem bindSink_arena (g : Option Nat) (s : State) : (bindSink g s).arena = s.arena := rfl
@[simp] theorem bindSink_pq (g : Option Nat) (s : State) : (bindSink g s).pq = s.pq := rfl
@[simp] theorem bindSink_rootValid (g : Option Nat) (s : State) : (bindSink g s).rootValid = s.rootValid := rfl
@[simp] theorem bindSink_code (g : Option Nat) (s : State) : (bindSink g s).code = s.code := rfl
@[simp] theorem bindSink_ftree (g : Option Nat) (s : State) : (bindSink g s).ftree = s.ftree := rfl
@[simp] theorem bindSink_srcBound (g : Option Nat) (s : State) : (bindSink g s).srcBound = s.srcBound := rfl
@[simp] theorem bindSink_src (g : Option Nat) (s : State) : (bindSink g s).src = s.src := rfl
@[simp] theorem bindSink_srcFailAt (g : Option Nat) (s : State) : (bindSink g s).srcFailAt = s.srcFailAt := rfl
@[simp] theorem bindSink_srcPos (g : Option Nat) (s : State) : (bindSink g s).srcPos = s.srcPos := rfl
@[simp] theorem bindSink_snkBound (g : Option Nat) (s : State) : (bindSink g s).snkBound = true := rfl
@[simp] theorem bindSink_snk (g : Option Nat) (s : State) : (bindSink g s).snk = [] := rfl
@[simp] theorem bindSink_snkFailAt (g : Option Nat) (s : State) : (bindSink g s).snkFailAt = g := rfl
@[simp] theorem bindSink_hostq (g : Option Nat) (s : State) : (bindSink g s).hostq = s.hostq := rfl
@[simp] theorem bindSink_reply (g : Option Nat) (s : State) : (bindSink g s).reply = s.reply := rfl
@[simp] theorem bindSink_freeCtr (g : Option Nat) (s : State) : (bindSink g s).freeCtr = s.freeCtr := rfl

@[simp] theorem unbindStreams_result (s : State) : (unbindStreams s).result = s.result := rfl
@[simp] theorem unbindStreams_done (s : State) : (unbindStreams s).done = s.done := rfl
@[simp] theorem unbindStreams_totalChars (s : State) : (unbindStreams s).totalChars = s.totalChars := rfl
@[simp] theorem unbindStreams_treeSize (s : State) : (unbindStreams s).treeSize = s.treeSize := rfl
@[simp] theorem unbindStreams_nDistinct (s : State) : (unbindStreams s).nDistinct = s.nDistinct := rfl
@[simp] theorem unbindStreams_root (s : State) : (unbindStreams s).root = s.root := rfl
@[simp] theorem unbindStreams_ex0Idx (s : State) : (unbindStreams s).ex0Idx = s.ex0Idx := rfl
@[simp] theorem unbindStreams_ex0Freq (s : State) : (unbindStreams s).ex0Freq = s.ex0Freq := rfl
@[simp] theorem unbindStreams_ex1Idx (s : State) : (unbindStreams s).ex1Idx = s.ex1Idx := rfl
@[simp] theorem unbindStreams_ex1Freq (s : State) : (unbindStreams s).ex1Freq = s.ex1Freq := rfl
@[simp] theorem unbindStreams_ft (s : State) : (unbindStreams s).ft = s.ft := rfl
@[simp] theorem unbindStreams_arena (s : State) : (unbindStreams s).arena = s.arena := rfl
@[simp] theorem unbindStreams_pq (s : State) : (unbindStreams s).pq = s.pq := rfl
@[simp] theorem unbindStreams_rootValid (s : State) : (unbindStreams s).rootValid = s.rootValid := rfl
@[simp] theorem unbindStreams_code (s : State) : (unbindStreams s).code = s.code := rfl
@[simp] theorem unbindStreams_ftree (s : State) : (unbindStreams s).ftree = s.ftree := rfl
@[simp] theorem unbindStreams_srcBound (s : State) : (unbindStreams s).srcBound = false := rfl
@[simp] theorem unbindStreams_src (s : State) : (unbindStreams s).src = s.src := rfl
@[simp] theorem unbindStreams_srcFailAt (s : State) : (unbindStreams s).srcFailAt = s.srcFailAt := rfl
@[simp] theorem unbindStreams_srcPos (s : State) : (unbindStreams s).srcPos = 0 := rfl
@[simp] theorem unbindStreams_snkBound (s : State) : (unbindStreams s).snkBound = false := rfl
@[simp] theorem unbindStreams_snk (s : State) : (unbindStreams s).snk = [] := rfl
@[simp] theorem unbindStreams_snkFailAt (s : State) : (unbindStreams s).snkFailAt = s.snkFailAt := rfl
@[simp] theorem unbindStreams_hostq (s : State) : (unbindStreams s).hostq = s.hostq := rfl
@[simp] theorem unbindStreams_reply (s : State) : (unbindStreams s).reply = s.reply := rfl
@[simp] theorem unbindStreams_freeCtr (s : State) : (unbindStreams s).freeCtr = s.freeCtr := rfl

@[simp] theorem pushCommand_result (w : CmdWord) (s : State) : (pushCommand w s).result = s.result := rfl
@[simp] theorem pushCommand_done (w : CmdWord) (s : State) : (pushCommand w s).done = s.done := rfl
@[simp] theorem pushCommand_totalChars (w : CmdWord) (s : State) : (pushCommand w s).totalChars = s.totalChars := rfl
@[simp] theorem pushCommand_treeSize (w : CmdWord) (s : State) : (pushCommand w s).treeSize = s.treeSize := rfl
@[simp] theorem pushCommand_nDistinct (w : CmdWord) (s : State) : (pushCommand w s).nDistinct = s.nDistinct := rfl
@[simp] theorem pushCommand_root (w : CmdWord) (s : State) : (pushCommand w s).root = s.root := rfl
@[simp] theorem pushCommand_ex0Idx (w : CmdWord) (s : State) : (pushCommand w s).ex0Idx = s.ex0Idx := rfl
@[simp] theorem pushCommand_ex0Freq (w : CmdWord) (s : State) : (pushCommand w s).ex0Freq = s.ex0Freq := rfl
@[simp] theorem pushCommand_ex1Idx (w : CmdWord) (s : State) : (pushCommand w s).ex1Idx = s.ex1Idx := rfl
@[simp] theorem pushCommand_ex1Freq (w : CmdWord) (s : State) : (pushCommand w s).ex1Freq = s.ex1Freq := rfl
@[simp] theorem pushCommand_ft (w : CmdWord) (s : State) : (pushCommand w s).ft = s.ft := rfl
@[simp] theorem pushCommand_arena (w : CmdWord) (s : State) : (pushCommand w s).arena = s.arena := rfl
@[simp] theorem pushCommand_pq (w : CmdWord) (s : State) : (pushCommand w s).pq = s.pq := rfl
@[simp] theorem pushCommand_rootValid (w : CmdWord) (s : State) : (pushCommand w s).rootValid = s.rootValid := rfl
@[simp] theorem pushCommand_code (w : CmdWord) (s : State) : (pushCommand w s).code = s.code := rfl
@[simp] theorem pushCommand_ftree (w : CmdWord) (s : State) : (pushCommand w s).ftree = s.ftree := rfl
@[simp] theorem pushCommand_srcBound (w : CmdWord) (s : State) : (pushCommand w s).srcBound = s.srcBound := rfl
@[simp] theorem pushCommand_src (w : CmdWord) (s : State) : (pushCommand w s).src = s.src := rfl
@[simp] theorem pushCommand_srcFailAt (w : CmdWord) (s : State) : (pushCommand w s).srcFailAt = s.srcFailAt := rfl
@[simp] theorem pushCommand_srcPos (w : CmdWord) (s : State) : (pushCommand w s).srcPos = s.srcPos := rfl
@[simp] theorem pushCommand_snkBound (w : CmdWord) (s : State) : (pushCommand w s).snkBound = s.snkBound := rfl
@[simp] theorem pushCommand_snk (w : CmdWord) (s : State) : (pushCommand w s).snk = s.snk := rfl
@[simp] theorem pushCommand_snkFailAt (w : CmdWord) (s : State) : (pushCommand w s).snkFailAt = s.snkFailAt := rfl
@[simp] theorem pushCommand_hostq (w : CmdWord) (s : State) : (pushCommand w s).hostq = .command w :: s.hostq := rfl
@[simp] theorem pushCommand_reply (w : CmdWord) (s : State) : (pushCommand w s).reply = s.reply := rfl
@[simp] theorem pushCommand_freeCtr (w : CmdWord) (s : State) : (pushCommand w s).freeCtr = s.freeCtr := rfl

@[simp] theorem snkTruncate_result (s : State) : (snkTruncate s).result = s.result := by
  unfold snkTruncate; split <;> rfl
@[simp] theorem snkTruncate_done (s : State) : (snkTruncate s).done = s.done := by
  unfold snkTruncate; split <;> rfl
@[simp] theorem snkTruncate_totalChars (s : State) : (snkTruncate s).totalChars = s.totalChars := by
  unfold snkTruncate; split <;> rfl
@[simp] theorem snkTruncate_treeSize (s : State) : (snkTruncate s).treeSize = s.treeSize := by
  unfold snkTruncate; split <;> rfl
@[simp] theorem snkTruncate_nDistinct (s : State) : (snkTruncate s).nDistinct = s.nDistinct := by
  unfold snkTruncate; split <;> rfl
@[simp] theorem snkTruncate_root (s : State) : (snkTruncate s).root = s.root := by
  unfold snkTruncate; split <;> rfl
@[simp] theorem snkTruncate_ex0Idx (s : State) : (snkTruncate s).ex0Idx = s.ex0Idx := by
  unfold snkTruncate; split <;> rfl
@[simp] theorem snkTruncate_ex0Freq (s : State) : (snkTruncate s).ex0Freq = s.ex0Freq := by
  unfold snkTruncate; split <;> rfl
@[simp] theorem snkTruncate_ex1Idx (s : State) : (snkTruncate s).ex1Idx = s.ex1Idx := by
  unfold snkTruncate; split <;> rfl
@[simp] theorem snkTruncate_ex1Freq (s : State) : (snkTruncate s).ex1Freq = s.ex1Freq := by
  unfold snkTruncate; split <;> rfl
@[simp] theorem snkTruncate_ft (s : State) : (snkTruncate s).ft = s.ft := by
  unfold snkTruncate; split <;> rfl
@[simp] theorem snkTruncate_arena (s : State) : (snkTruncate s).arena = s.arena := by
  unfold snkTruncate; split <;> rfl
@[simp] theorem snkTruncate_pq (s : State) : (snkTruncate s).pq = s.pq := by
  unfold snkTruncate; split <;> rfl
@[simp] theorem snkTruncate_rootValid (s : State) : (snkTruncate s).rootValid = s.rootValid := by
  unfold snkTruncate; split <;> rfl
@[simp] theorem snkTruncate_code (s : State) : (snkTruncate s).code = s.code := by
  unfold snkTruncate; split <;> rfl
@[simp] theorem snkTruncate_ftree (s : State) : (snkTruncate s).ftree = s.ftree := by
  unfold snkTruncate; split <;> rfl
@[simp] theorem snkTruncate_srcBound (s : State) : (snkTruncate s).srcBound = s.srcBound := by
  unfold snkTruncate; split <;> rfl
@[simp] theorem snkTruncate_src (s : State) : (snkTruncate s).src = s.src := by
  unfold snkTruncate; split <;> rfl
@[simp] theorem snkTruncate_srcFailAt (s : State) : (snkTruncate s).srcFailAt = s.srcFailAt := by
  unfold snkTruncate; split <;> rfl
@[simp] theorem snkTruncate_srcPos (s : State) : (snkTruncate s).srcPos = s.srcPos := by
  unfold snkTruncate; split <;> rfl
@[simp] theorem snkTruncate_snkBound (s : State) : (snkTruncate s).snkBound = s.snkBound := by
  unfold snkTruncate; split <;> rfl
theorem snkTruncate_snk (s : State) : (snkTruncate s).snk = if s.snkBound = true then [] else s.snk := by
  unfold snkTruncate; split <;> simp_all
@[simp] theorem snkTruncate_snkFailAt (s : State) : (snkTruncate s).snkFailAt = s.snkFailAt := by
  unfold snkTruncate; split <;> rfl
@[simp] theorem snkTruncate_hostq (s : State) : (snkTruncate s).hostq = s.hostq := by
  unfold snkTruncate; split <;> rfl
@[simp] theorem snkTruncate_reply (s : State) : (snkTruncate s).reply = s.reply := by
  unfold snkTruncate; split <;> rfl
@[simp] theorem snkTruncate_freeCtr (s : State) : (snkTruncate s).freeCtr = s.freeCtr := by
  unfold snkTruncate; split <;> rfl

@[simp] theorem failureEntry_result (k : ErrorKind) (s : State) : (failureEntry k s).result = .error k := by
  simp [failureEntry]
@[simp] theorem failureEntry_done (k : ErrorKind) (s : State) : (failureEntry k s).done = true := by
  simp [failureEntry]
@[simp] theorem failureEntry_totalChars (k : ErrorKind) (s : State) : (failureEntry k s).totalChars = s.totalChars := by
  simp [failureEntry]
@[simp] theorem failureEntry_treeSize (k : ErrorKind) (s : State) : (failureEntry k s).treeSize = s.treeSize := by
  simp [failureEntry]
@[simp] theorem failureEntry_nDistinct (k : ErrorKind) (s : State) : (failureEntry k s).nDistinct = s.nDistinct := by
  simp [failureEntry]
@[simp] theorem failureEntry_root (k : ErrorKind) (s : State) : (failureEntry k s).root = s.root := by
  simp [failureEntry]
@[simp] theorem failureEntry_ex0Idx (k : ErrorKind) (s : State) : (failureEntry k s).ex0Idx = s.ex0Idx := by
  simp [failureEntry]
@[simp] theorem failureEntry_ex0Freq (k : ErrorKind) (s : State) : (failureEntry k s).ex0Freq = s.ex0Freq := by
  simp [failureEntry]
@[simp] theorem failureEntry_ex1Idx (k : ErrorKind) (s : State) : (failureEntry k s).ex1Idx = s.ex1Idx := by
  simp [failureEntry]
@[simp] theorem failureEntry_ex1Freq (k : ErrorKind) (s : State) : (failureEntry k s).ex1Freq = s.ex1Freq := by
  simp [failureEntry]
@[simp] theorem failureEntry_ft (k : ErrorKind) (s : State) : (failureEntry k s).ft = none := by
  simp [failureEntry]
@[simp] theorem failureEntry_arena (k : ErrorKind) (s : State) : (failureEntry k s).arena = none := by
  simp [failureEntry]
@[simp] theorem failureEntry_pq (k : ErrorKind) (s : State) : (failureEntry k s).pq = none := by
  simp [failureEntry]
@[simp] theorem failureEntry_rootValid (k : ErrorKind) (s : State) : (failureEntry k s).rootValid = false := by
  simp [failureEntry]
@[simp] theorem failureEntry_code (k : ErrorKind) (s : State) : (failureEntry k s).code = none := by
  simp [failureEntry]
@[simp] theorem failureEntry_ftree (k : ErrorKind) (s : State) : (failureEntry k s).ftree = none := by
  simp [failureEntry]
@[simp] theorem failureEntry_srcBound (k : ErrorKind) (s : State) : (failureEntry k s).srcBound = s.srcBound := by
  simp [failureEntry]
@[simp] theorem failureEntry_src (k : ErrorKind) (s : State) : (failureEntry k s).src = s.src := by
  simp [failureEntry]
@[simp] theorem failureEntry_srcFailAt (k : ErrorKind) (s : State) : (failureEntry k s).srcFailAt = s.srcFailAt := by
  simp [failureEntry]
@[simp] theorem failureEntry_srcPos (k : ErrorKind) (s : State) : (failureEntry k s).srcPos = s.srcPos := by
  simp [failureEntry]
@[simp] theorem failureEntry_snkBound (k : ErrorKind) (s : State) : (failureEntry k s).snkBound = s.snkBound := by
  simp [failureEntry]
theorem failureEntry_snk (k : ErrorKind) (s : State) :
    (failureEntry k s).snk = if s.snkBound = true then [] else s.snk :=
  snkTruncate_snk (releaseAll s)
@[simp] theorem failureEntry_snkFailAt (k : ErrorKind) (s : State) : (failureEntry k s).snkFailAt = s.snkFailAt := by
  simp [failureEntry]
@[simp] theorem failureEntry_hostq (k : ErrorKind) (s : State) : (failureEntry k s).hostq = s.hostq := by
  simp [failureEntry]
@[simp] theorem failureEntry_reply (k : ErrorKind) (s : State) : (failureEntry k s).reply = s.reply := by
  simp [failureEntry]
@[simp] theorem failureEntry_freeCtr (k : ErrorKind) (s : State) : (failureEntry k s).freeCtr = s.freeCtr := by
  simp [failureEntry]

end Sys2Proof.Machine
end

