-- ==== Sys2Proof/Laws/Ops.lean ====
section
/-! SUPPORT. For each shared operation of Machine/Ops.lean, what it can do, said once. -/

namespace Sys2Proof.Machine

/-! Sequencing. -/

@[simp] theorem Res.bind_ok {α β : Type} (a : α) (s : State) (f : α → State → Res β) :
    (Res.ok a s).bind f = f a s := rfl

@[simp] theorem Res.bind_raised {α β : Type} (k : ErrorKind) (s : State) (f : α → State → Res β) :
    (Res.raised k s).bind f = .raised k s := rfl

@[simp] theorem Res.bind_stuck {α β : Type} (r : Fault) (f : α → State → Res β) :
    (Res.stuck r).bind f = .stuck r := rfl

@[simp] theorem Res.andThen_ok (a : Unit) (s : State) (f : State → Res Unit) :
    (Res.ok a s).andThen f = f s := rfl

@[simp] theorem Res.andThen_raised (k : ErrorKind) (s : State) (f : State → Res Unit) :
    (Res.raised k s).andThen f = .raised k s := rfl

@[simp] theorem Res.andThen_stuck (r : Fault) (f : State → Res Unit) :
    (Res.stuck r).andThen f = .stuck r := rfl

theorem Res.bind_eq_ok {α β : Type} {m : Res α} {f : α → State → Res β} {b : β} {t : State} :
    m.bind f = .ok b t ↔ ∃ a s, m = .ok a s ∧ f a s = .ok b t := by
  cases m <;> simp

theorem Res.bind_eq_raised {α β : Type} {m : Res α} {f : α → State → Res β} {k : ErrorKind}
    {t : State} :
    m.bind f = .raised k t ↔ m = .raised k t ∨ ∃ a s, m = .ok a s ∧ f a s = .raised k t := by
  cases m <;> simp

theorem Res.bind_eq_stuck {α β : Type} {m : Res α} {f : α → State → Res β} {r : Fault} :
    m.bind f = .stuck r ↔ m = .stuck r ∨ ∃ a s, m = .ok a s ∧ f a s = .stuck r := by
  cases m <;> simp

/-! The end of a command: completion or failure entry (60_exceptions.md R257, R258). -/

theorem finish_eq_next {r : Res Unit} {t : State} :
    finish r = .next t ↔
      (∃ s, r = .ok () s ∧ t = complete s) ∨ ∃ k s, r = .raised k s ∧ t = failureEntry k s := by
  cases r <;> simp [finish, eq_comm]

theorem finish_eq_fault {r : Res Unit} {f : Fault} : finish r = .fault f ↔ r = .stuck f := by
  cases r <;> simp [finish]

theorem finish_ne_refused (r : Res Unit) (x : Refusal) : finish r ≠ .refused x := by
  cases r <;> simp [finish]

/-! Failure points. -/

theorem failsAt_eq_false {f : Option Nat} {p : Nat} :
    failsAt f p = false ↔ allows f (p + 1) = true := by
  cases f with
  | none => exact iff_of_true rfl rfl
  | some g => simp only [failsAt, allows, decide_eq_false_iff_not, decide_eq_true_eq]; omega

theorem allows_mono {f : Option Nat} {m n : Nat} (h : m ≤ n) (ha : allows f n = true) :
    allows f m = true := by
  cases f with
  | none => rfl
  | some g => simp [allows] at *; omega

/-! The source (20_memory.md R63). -/

/-- `SrcNext` returns a byte: the one at the position, which advances by one. -/
theorem srcNext_byte {s t : State} {b : Byte} (h : srcNext s = .byte b t) :
    s.srcBound = true ∧ allows s.srcFailAt (s.srcPos + 1) = true ∧ s.src[s.srcPos]? = some b ∧
      t = { s with srcPos := s.srcPos + 1 } := by
  unfold srcNext at h
  split at h
  · cases h
  · split at h
    · cases h
    · rename_i hb hf
      cases he : s.src[s.srcPos]? with
      | none => simp [he] at h
      | some c =>
        simp [he] at h
        exact ⟨by simpa using hb, failsAt_eq_false.1 (by simpa using hf), by rw [h.1], h.2.symm⟩

/-- `SrcNext` returns `EOF` only at or past the end of a readable source. -/
theorem srcNext_eof {s : State} (h : srcNext s = .eof) :
    s.srcBound = true ∧ allows s.srcFailAt (s.srcPos + 1) = true ∧ s.src.length ≤ s.srcPos := by
  unfold srcNext at h
  split at h
  · cases h
  · split at h
    · cases h
    · rename_i hb hf
      cases he : s.src[s.srcPos]? with
      | none =>
        exact ⟨by simpa using hb, failsAt_eq_false.1 (by simpa using hf), by simpa using he⟩
      | some c => simp [he] at h

/-- A readable byte is returned. -/
theorem srcNext_of_byte {s : State} {b : Byte} (hb : s.srcBound = true)
    (hf : allows s.srcFailAt (s.srcPos + 1) = true) (he : s.src[s.srcPos]? = some b) :
    srcNext s = .byte b { s with srcPos := s.srcPos + 1 } := by
  simp [srcNext, hb, failsAt_eq_false.2 hf, he]

/-- The end of a readable source is reported. -/
theorem srcNext_of_end {s : State} (hb : s.srcBound = true)
    (hf : allows s.srcFailAt (s.srcPos + 1) = true) (he : s.src.length ≤ s.srcPos) :
    srcNext s = .eof := by
  simp [srcNext, hb, failsAt_eq_false.2 hf, List.getElem?_eq_none he]

/-- An unbound source, or one that fails at the position, answers `ERR`, before `EOF`. -/
theorem srcNext_of_err {s : State}
    (h : s.srcBound = false ∨ allows s.srcFailAt (s.srcPos + 1) = false) : srcNext s = .err := by
  unfold srcNext
  rcases h with h | h
  · simp [h]
  · have hf : failsAt s.srcFailAt s.srcPos = true := by
      cases hb : failsAt s.srcFailAt s.srcPos with
      | true => rfl
      | false => rw [failsAt_eq_false.1 hb] at h; cases h
    simp [hf]

/-- No byte is returned where the bytes left are used up. -/
theorem srcNext_byte_lt {s t : State} {b : Byte} (h : srcNext s = .byte b t) :
    s.srcPos < s.src.length := by
  obtain ⟨-, -, he, -⟩ := srcNext_byte h
  exact (List.getElem?_eq_some_iff.1 he).1

/-! The sink (20_memory.md R65). -/

/-- `SnkPut` goes on with the byte appended, or fails with nothing written. -/
theorem snkPut_cases (b : Byte) (s : State) :
    (SinkTakes 1 s ∧ snkPut b s = .ok () { s with snk := s.snk ++ [b] }) ∨
      (¬ SinkTakes 1 s ∧ snkPut b s = .raised .fileAccessFailure s) := by
  by_cases hb : s.snkBound = true
  · by_cases hf : allows s.snkFailAt (s.snk.length + 1) = true
    · exact .inl ⟨⟨hb, hf⟩, by simp [snkPut, hb, failsAt_eq_false.2 hf]⟩
    · refine .inr ⟨fun h => hf h.2, ?_⟩
      have : failsAt s.snkFailAt s.snk.length = true := by
        cases he : failsAt s.snkFailAt s.snk.length with
        | true => rfl
        | false => exact absurd (failsAt_eq_false.1 he) hf
      simp [snkPut, hb, this]
  · exact .inr ⟨fun h => hb h.1, by simp [snkPut, hb]⟩

/-- A sink that takes every byte has them all appended. -/
theorem snkPutAll_of_takes (bs : List Byte) (s : State) (h : SinkTakes bs.length s) :
    snkPutAll bs s = .ok () { s with snk := s.snk ++ bs } := by
  induction bs generalizing s with
  | nil => simp [snkPutAll]
  | cons b bs ih =>
    have h1 : SinkTakes 1 s := ⟨h.1, allows_mono (by simp) h.2⟩
    have h2 : snkPut b s = .ok () { s with snk := s.snk ++ [b] } := by
      rcases snkPut_cases b s with h' | h'
      · exact h'.2
      · exact absurd h1 h'.1
    simp only [snkPutAll, h2, Res.andThen_ok]
    rw [ih]
    · simp
    · exact ⟨h.1, by simpa [Nat.add_assoc, Nat.add_comm 1] using h.2⟩

/-- What `snkPutAll` can do: append everything, or fail with the sink appended to. -/
theorem snkPutAll_cases (bs : List Byte) (s : State) :
    snkPutAll bs s = .ok () { s with snk := s.snk ++ bs } ∨
      ∃ more, snkPutAll bs s = .raised .fileAccessFailure { s with snk := s.snk ++ more } := by
  induction bs generalizing s with
  | nil => simp [snkPutAll]
  | cons b bs ih =>
    rcases snkPut_cases b s with ⟨-, h⟩ | ⟨-, h⟩
    · rcases ih { s with snk := s.snk ++ [b] } with h' | ⟨more, h'⟩
      · exact .inl (by simp [snkPutAll, h, h'])
      · exact .inr ⟨b :: more, by simp [snkPutAll, h, h']⟩
    · exact .inr ⟨[], by simp [snkPutAll, h]⟩

/-- `GetLE` moves the source position and nothing else, whatever it answers, and is never stuck. -/
theorem getLE_cases (n : Nat) (s : State) :
    (∃ v, getLE n s = .ok v { s with srcPos := s.srcPos + n }) ∨
      ∃ k p, (k = .fileAccessFailure ∨ k = .unexpectedEndOfInput) ∧ s.srcPos ≤ p ∧
        getLE n s = .raised k { s with srcPos := p } := by
  induction n generalizing s with
  | zero => exact .inl ⟨0, rfl⟩
  | succ n ih =>
    cases h : srcNext s with
    | err => exact .inr ⟨.fileAccessFailure, s.srcPos, .inl rfl, le_refl _, by simp [getLE, h]⟩
    | eof => exact .inr ⟨.unexpectedEndOfInput, s.srcPos, .inr rfl, le_refl _, by simp [getLE, h]⟩
    | byte b t =>
      obtain ⟨-, -, -, rfl⟩ := srcNext_byte h
      rcases ih { s with srcPos := s.srcPos + 1 } with ⟨v, hv⟩ | ⟨k, p, hk, hp, hv⟩
      · exact .inl ⟨b.toNat + 256 * v, by simp [getLE, h, hv, Nat.add_assoc, Nat.add_comm 1]⟩
      · exact .inr ⟨k, p, hk, by simp at hp; omega, by simp [getLE, h, hv]⟩

/-! The host's next action (log 1). -/

/-- Taking an action removes it and advances the free-value counter. -/
theorem popAction_cons {s : State} {a : HostAction} {rest : List HostAction}
    (h : s.hostq = a :: rest) :
    popAction s = some (a, { s with hostq := rest, freeCtr := s.freeCtr + 1 }) := by
  simp [popAction, h]

/-- The step that follows `withFetchWord` issues that word. -/
theorem step_withFetchWord (s : State) (nbits w : Nat) :
    step (s.withFetchWord nbits w) =
      issueWord (tableWord nbits w) { s with freeCtr := s.freeCtr + 1 } := by
  simp [step, act, State.withFetchWord, pushCommand, popAction]

end Sys2Proof.Machine
end

