-- ==== Sys2Proof/Laws/Heap.lean ====
section
/-! SUPPORT. The heap procedures (41_priority_queue.md R143 to R147): they only rearrange entries,
and their bounds are never used up. -/

namespace Sys2Proof.Machine

/-- Exchanging two entries rearranges the heap. -/
theorem swapEntries_perm {h : List HeapEntry} {i j : Nat} {a b : HeapEntry}
    (hi : h[i]? = some a) (hj : h[j]? = some b) : (swapEntries h i j a b).Perm h := by
  obtain ⟨li, rfl⟩ := List.getElem?_eq_some_iff.1 hi
  obtain ⟨lj, rfl⟩ := List.getElem?_eq_some_iff.1 hj
  exact List.set_set_perm li lj

@[simp] theorem swapEntries_length (h : List HeapEntry) (i j : Nat) (a b : HeapEntry) :
    (swapEntries h i j a b).length = h.length := by
  simp [swapEntries]

/-- R143: sifting up rearranges the heap. -/
theorem siftUp_perm (n : Nat) (h : List HeapEntry) (i : Nat) : (siftUp n h i).Perm h := by
  induction n generalizing h i with
  | zero => exact .refl h
  | succ n ih =>
    unfold siftUp
    split
    · exact .refl h
    · split
      · rename_i hp he
        split
        · exact (ih _ _).trans (swapEntries_perm hp he)
        · exact .refl h
      · exact .refl h

/-- R143: a bound of at least the starting index is never used up: a larger one answers the same. -/
theorem siftUp_bound (n : Nat) (h : List HeapEntry) (i : Nat) (hn : i ≤ n) :
    siftUp (n + 1) h i = siftUp n h i := by
  induction n generalizing h i with
  | zero => simp [siftUp, Nat.le_zero.1 hn]
  | succ n ih =>
    rw [siftUp, siftUp]
    split
    · rfl
    · have hle : (i - 1) / 2 ≤ n := by omega
      simp only [ih _ _ hle]

/-- R145: the child to compare with is a live entry past `i`. -/
theorem smallerChild_some {h : List HeapEntry} {i c : Nat} {x : HeapEntry}
    (hc : smallerChild h i = some (c, x)) : h[c]? = some x ∧ i < c := by
  unfold smallerChild at hc
  split at hc
  · cases hc
  · rename_i l hl
    split at hc
    · simp at hc; obtain ⟨rfl, rfl⟩ := hc; exact ⟨hl, by omega⟩
    · rename_i r hr
      split at hc <;> (simp at hc; obtain ⟨rfl, rfl⟩ := hc; exact ⟨by assumption, by omega⟩)

/-- R145: sifting down rearranges the heap. -/
theorem siftDown_perm (n : Nat) (h : List HeapEntry) (i : Nat) : (siftDown n h i).Perm h := by
  induction n generalizing h i with
  | zero => exact .refl h
  | succ n ih =>
    unfold siftDown
    split
    · rename_i he hc
      split
      · exact (ih _ _).trans (swapEntries_perm he (smallerChild_some hc).1)
      · exact .refl h
    · exact .refl h

/-- R145: a bound of at least the entries from `i` on is never used up. -/
theorem siftDown_bound (n : Nat) (h : List HeapEntry) (i : Nat) (hn : h.length ≤ n + i) :
    siftDown (n + 1) h i = siftDown n h i := by
  induction n generalizing h i with
  | zero =>
    have : h[i]? = none := List.getElem?_eq_none (by omega)
    simp [siftDown, this]
  | succ n ih =>
    rw [siftDown, siftDown]
    split
    · rename_i hc
      have hlt := (smallerChild_some hc).2
      split
      · exact ih _ _ (by simp; omega)
      · rfl
    · rfl

/-- R144: `HeapInsert` adds the entry and loses nothing. -/
theorem heapPush_perm (h : List HeapEntry) (e : HeapEntry) : (heapPush h e).Perm (e :: h) :=
  (siftUp_perm _ _ _).trans (List.perm_append_comm (l₁ := h) (l₂ := [e]))

@[simp] theorem heapPush_length (h : List HeapEntry) (e : HeapEntry) :
    (heapPush h e).length = h.length + 1 := by
  simpa using (heapPush_perm h e).length_eq

/-- R146: `HeapRemoveMin` of a non-empty heap returns `pq[0]` and keeps the other entries. -/
theorem heapPop_cons (m : HeapEntry) (r : List HeapEntry) :
    ∃ h, heapPop (m :: r) = some (m, h) ∧ (m :: h).Perm (m :: r) := by
  rcases List.eq_nil_or_concat r with rfl | ⟨r', l, rfl⟩
  · exact ⟨[], by simp [heapPop, siftDown], .refl _⟩
  · refine ⟨siftDown (m :: (r' ++ [l])).length (l :: r') 0, ?_, ?_⟩
    · simp [heapPop]
    · exact .cons m ((siftDown_perm _ _ _).trans
        (by simpa using List.perm_append_comm (l₁ := [l]) (l₂ := r')))

@[simp] theorem heapPop_nil : heapPop [] = none := rfl

theorem heapPop_some {h h' : List HeapEntry} {a : HeapEntry} (hp : heapPop h = some (a, h')) :
    h[0]? = some a ∧ (a :: h').Perm h ∧ h'.length + 1 = h.length := by
  cases h with
  | nil => simp at hp
  | cons m r =>
    obtain ⟨g, hg, hperm⟩ := heapPop_cons m r
    rw [hg] at hp
    obtain ⟨rfl, rfl⟩ := by simpa using hp
    exact ⟨rfl, hperm, by simpa using hperm.length_eq⟩

/-- R144: what `HeapInsert` can do. -/
theorem heapInsert_cases (e : HeapEntry) (s : State) :
    (s.pq = none ∧ heapInsert e s = .raised .queueNotInitialized s) ∨
    ∃ q, s.pq = some q ∧
      ((q.entries.length = q.cap.toNat ∧ heapInsert e s = .raised .queueSizeExceeded s) ∨
        (q.entries.length ≠ q.cap.toNat ∧
          heapInsert e s = .ok () { s with pq := some { q with entries := heapPush q.entries e } })) := by
  unfold heapInsert
  cases hq : s.pq with
  | none => simp
  | some q => by_cases h : q.entries.length = q.cap.toNat <;> simp [h]

/-- R147: what `HeapExtract2` can do. -/
theorem heapExtract2_cases (s : State) :
    (s.pq = none ∧ heapExtract2 s = .raised .queueNotInitialized s) ∨
    ∃ q, s.pq = some q ∧
      ((q.entries.length < 2 ∧ heapExtract2 s = .raised .invalidArguments s) ∨
        ∃ a b h h', heapPop q.entries = some (a, h) ∧ heapPop h = some (b, h') ∧
          (a :: b :: h').Perm q.entries ∧
          heapExtract2 s = .ok (a, b) { s with pq := some { q with entries := h' } }) := by
  unfold heapExtract2
  cases hq : s.pq with
  | none => simp
  | some q =>
    refine .inr ⟨q, rfl, ?_⟩
    cases h1 : heapPop q.entries with
    | none =>
      refine .inl ⟨?_, by simp [h1]⟩
      cases he : q.entries with
      | nil => simp
      | cons m r => obtain ⟨g, hg, -⟩ := heapPop_cons m r; simp [he, hg] at h1
    | some p =>
      obtain ⟨a, h⟩ := p
      obtain ⟨-, hp, hl⟩ := heapPop_some h1
      cases h2 : heapPop h with
      | none =>
        refine .inl ⟨?_, by simp [h1, h2]⟩
        cases he : h with
        | nil => simp [he] at hl; omega
        | cons m r => obtain ⟨g, hg, -⟩ := heapPop_cons m r; simp [he, hg] at h2
      | some p' =>
        obtain ⟨b, h'⟩ := p'
        obtain ⟨-, hp', -⟩ := heapPop_some h2
        exact .inr ⟨a, b, h, h', rfl, h2, (hp'.cons a).trans hp, by simp [h1, h2]⟩

end Sys2Proof.Machine
end

