-- ==== Sys2Proof/Laws/Loops.lean ====
section
/-! SUPPORT. The loops over the streams and the arena: which fields they can change, and that the
loops over the source never use up their bounds (46_top_level.md R242 (d), (e)). -/

namespace Sys2Proof.Machine

/-- R130: the counting loop moves the source position and nothing else; with a bound above the
bytes left it ends. -/
theorem countLoop_cases (n : Nat) (ft : FreqTable) (t : Nat) (s : State)
    (hn : s.src.length - s.srcPos < n) :
    (∃ ft' t' p, t ≤ t' ∧ countLoop n ft t s = .ok (ft', t') { s with srcPos := p }) ∨
      ∃ k p, (k = .fileAccessFailure ∨ k = .invalidParameter) ∧
        countLoop n ft t s = .raised k { s with srcPos := p } := by
  induction n generalizing ft t s with
  | zero => omega
  | succ n ih =>
    cases h : srcNext s with
    | err => exact .inr ⟨.fileAccessFailure, s.srcPos, .inl rfl, by simp [countLoop, h]⟩
    | eof => exact .inl ⟨ft, t, s.srcPos, le_refl _, by simp [countLoop, h]⟩
    | byte b u =>
      have hlt := srcNext_byte_lt h
      obtain ⟨-, -, -, rfl⟩ := srcNext_byte h
      by_cases ht : t = Config.maxInput
      · exact .inr ⟨.invalidParameter, s.srcPos + 1, .inr rfl, by simp [countLoop, h, ht]⟩
      · have hs : ({ s with srcPos := s.srcPos + 1 } : State).src.length - (s.srcPos + 1) < n := by
          simp only; omega
        rcases ih (bumpCount ft b) (t + 1) { s with srcPos := s.srcPos + 1 } hs with
          ⟨ft', t', p, hle, he⟩ | ⟨k, p, hk, he⟩
        · exact .inl ⟨ft', t', p, by omega, by simp [countLoop, h, ht, he]⟩
        · exact .inr ⟨k, p, hk, by simp [countLoop, h, ht, he]⟩

/-- R191: packing one code appends to the sink and changes nothing else. -/
theorem packBits_cases (bits : List Bool) (acc : Byte) (m : Nat) (s : State) :
    (∃ p more, packBits bits acc m s = .ok p { s with snk := s.snk ++ more }) ∨
      ∃ more, packBits bits acc m s = .raised .fileAccessFailure { s with snk := s.snk ++ more } := by
  induction bits generalizing acc m s with
  | nil => exact .inl ⟨(acc, m), [], by simp [packBits]⟩
  | cons b bs ih =>
    by_cases hm : m + 1 = 8
    · rcases snkPut_cases ((acc <<< 1) ||| (BitVec.ofBool b).setWidth 8) s with ⟨-, h⟩ | ⟨-, h⟩
      · rcases ih 0 0 { s with snk := s.snk ++ [(acc <<< 1) ||| (BitVec.ofBool b).setWidth 8] } with
          ⟨p, more, he⟩ | ⟨more, he⟩
        · refine .inl ⟨p, ((acc <<< 1) ||| (BitVec.ofBool b).setWidth 8) :: more, ?_⟩
          rw [packBits]
          simp only [hm, if_true, h, Res.bind_ok, he]
          simp
        · refine .inr ⟨((acc <<< 1) ||| (BitVec.ofBool b).setWidth 8) :: more, ?_⟩
          rw [packBits]
          simp only [hm, if_true, h, Res.bind_ok, he]
          simp
      · refine .inr ⟨[], ?_⟩
        rw [packBits]
        simp only [hm, if_true, h, Res.bind_raised, List.append_nil]
    · have hp : packBits (b :: bs) acc m s =
          packBits bs ((acc <<< 1) ||| (BitVec.ofBool b).setWidth 8) (m + 1) s := by
        rw [packBits]
        simp only [hm, if_false]
      rw [hp]
      exact ih _ _ _

/-- R191: the packing loop moves the source position and appends to the sink, and with a bound
above the bytes left it ends. -/
theorem packLoop_cases (code : CodeTable) (n : Nat) (acc : Byte) (m : Nat) (s : State)
    (hn : s.src.length - s.srcPos < n) :
    (∃ p pos more, packLoop code n acc m s =
      .ok p { s with srcPos := pos, snk := s.snk ++ more }) ∨
      ∃ k pos more, (k = .fileAccessFailure ∨ k = .invalidResource) ∧
        packLoop code n acc m s = .raised k { s with srcPos := pos, snk := s.snk ++ more } := by
  induction n generalizing acc m s with
  | zero => omega
  | succ n ih =>
    cases h : srcNext s with
    | err => exact .inr ⟨.fileAccessFailure, s.srcPos, [], .inl rfl, by simp [packLoop, h]⟩
    | eof => exact .inl ⟨(acc, m), s.srcPos, [], by simp [packLoop, h]⟩
    | byte b u =>
      have hlt := srcNext_byte_lt h
      obtain ⟨-, -, -, rfl⟩ := srcNext_byte h
      by_cases hc : (tableGet code b).length = 0
      · exact .inr ⟨.invalidResource, s.srcPos + 1, [], .inr rfl, by simp [packLoop, h, hc]⟩
      · rcases packBits_cases (tableGet code b) acc m { s with srcPos := s.srcPos + 1 } with
          ⟨p, more, hp⟩ | ⟨more, hp⟩
        · have hs : ({ s with srcPos := s.srcPos + 1, snk := s.snk ++ more } : State).src.length -
              (s.srcPos + 1) < n := by
            simp only; omega
          have hl : packLoop code (n + 1) acc m s = packLoop code n p.1 p.2
              { s with srcPos := s.srcPos + 1, snk := s.snk ++ more } := by
            rw [packLoop]
            simp only [h, hc, if_false, hp, Res.bind_ok]
          rw [hl]
          rcases ih p.1 p.2 { s with srcPos := s.srcPos + 1, snk := s.snk ++ more } hs with
            ⟨q, pos, more', he⟩ | ⟨k, pos, more', hk, he⟩
          · exact .inl ⟨q, pos, more ++ more', by simp [he]⟩
          · exact .inr ⟨k, pos, more ++ more', hk, by simp [he]⟩
        · refine .inr ⟨.fileAccessFailure, s.srcPos + 1, more, .inl rfl, ?_⟩
          rw [packLoop]
          simp only [h, hc, if_false, hp, Res.bind_raised]

/-- R196: walking the bits of one byte appends to the sink and changes nothing else. -/
theorem walkBits_cases (nodeAt : Nat → FinalNode) (rt total : Nat) (bits : List Bool)
    (cur emitted : Nat) (s : State) :
    (∃ p more, walkBits nodeAt rt total bits cur emitted s =
      .ok p { s with snk := s.snk ++ more }) ∨
      ∃ k more, (k = .fileAccessFailure ∨ k = .invalidResource) ∧
        walkBits nodeAt rt total bits cur emitted s =
          .raised k { s with snk := s.snk ++ more } := by
  induction bits generalizing cur emitted s with
  | nil => exact .inl ⟨(cur, emitted), [], by simp [walkBits]⟩
  | cons bit bits ih =>
    rw [walkBits]
    generalize (if bit = true then (nodeAt cur).right else (nodeAt cur).left) = nxt
    split
    · exact .inr ⟨.invalidResource, [], .inr rfl, by simp⟩
    · split
      · rcases snkPut_cases (nodeAt nxt.toNat).sym s with ⟨-, h⟩ | ⟨-, h⟩
        · simp only [h, Res.bind_ok]
          split
          · exact .inl ⟨(rt, emitted + 1), [(nodeAt nxt.toNat).sym], rfl⟩
          · rcases ih rt (emitted + 1) { s with snk := s.snk ++ [(nodeAt nxt.toNat).sym] } with
              ⟨p, more, he⟩ | ⟨k, more, hk, he⟩
            · exact .inl ⟨p, (nodeAt nxt.toNat).sym :: more, by rw [he]; simp⟩
            · exact .inr ⟨k, (nodeAt nxt.toNat).sym :: more, hk, by rw [he]; simp⟩
        · exact .inr ⟨.fileAccessFailure, [], .inl rfl, by simp [h]⟩
      · exact ih _ _ _

/-- R196, R200: the unpacking loop moves the source position and appends to the sink, and with a
bound above the bytes left it ends. -/
theorem unpackLoop_cases (nodeAt : Nat → FinalNode) (rt total n cur emitted : Nat) (s : State)
    (hn : s.src.length - s.srcPos < n) :
    (∃ pos more, unpackLoop nodeAt rt total n cur emitted s =
      .ok () { s with srcPos := pos, snk := s.snk ++ more }) ∨
      ∃ k pos more,
        (k = .fileAccessFailure ∨ k = .unexpectedEndOfInput ∨ k = .invalidResource) ∧
        unpackLoop nodeAt rt total n cur emitted s =
          .raised k { s with srcPos := pos, snk := s.snk ++ more } := by
  induction n generalizing cur emitted s with
  | zero => omega
  | succ n ih =>
    by_cases ht : emitted < total
    · cases h : srcNext s with
      | err =>
        exact .inr ⟨.fileAccessFailure, s.srcPos, [], .inl rfl, by simp [unpackLoop, h, ht]⟩
      | eof =>
        exact .inr ⟨.unexpectedEndOfInput, s.srcPos, [], .inr (.inl rfl),
          by simp [unpackLoop, h, ht]⟩
      | byte b u =>
        have hlt := srcNext_byte_lt h
        obtain ⟨-, -, -, rfl⟩ := srcNext_byte h
        rcases walkBits_cases nodeAt rt total (bitsMsbFirst b) cur emitted
            { s with srcPos := s.srcPos + 1 } with ⟨p, more, hp⟩ | ⟨k, more, hk, hp⟩
        · have hs : ({ s with srcPos := s.srcPos + 1, snk := s.snk ++ more } : State).src.length -
              (s.srcPos + 1) < n := by
            simp only; omega
          have hl : unpackLoop nodeAt rt total (n + 1) cur emitted s =
              unpackLoop nodeAt rt total n p.1 p.2
                { s with srcPos := s.srcPos + 1, snk := s.snk ++ more } := by
            rw [unpackLoop]
            simp only [h, ht, if_true, hp, Res.bind_ok]
          rw [hl]
          rcases ih p.1 p.2 { s with srcPos := s.srcPos + 1, snk := s.snk ++ more } hs with
            ⟨pos, more', he⟩ | ⟨k, pos, more', hk, he⟩
          · exact .inl ⟨pos, more ++ more', by simp [he]⟩
          · exact .inr ⟨k, pos, more ++ more', hk, by simp [he]⟩
        · refine .inr ⟨k, s.srcPos + 1, more, hk.elim .inl (fun h => .inr (.inr h)), ?_⟩
          rw [unpackLoop]
          simp only [h, ht, if_true, hp, Res.bind_raised]
    · exact .inl ⟨s.srcPos, [], by simp [unpackLoop, ht]⟩

/-- R163, R164: `ArenaAppend` adds the node behind the others, whose values and indices stay, or
fails with nothing changed. -/
theorem arenaAppend_cases (n : WorkNode) (s : State) :
    (∃ a c, s.arena = some a ∧ (c = a.cap ∨ c = BitVec.ofNat 10 (2 * a.cap.toNat)) ∧
      arenaAppend n s = .ok () { s with arena := some { nodes := a.nodes ++ [n], cap := c } }) ∨
    (s.arena = none ∧ arenaAppend n s = .raised .invalidArguments s) ∨
    ∃ a, s.arena = some a ∧ a.nodes.length = a.cap.toNat ∧
      Config.arenaDepth < 2 * a.cap.toNat ∧
      arenaAppend n s = .raised .memoryAllocationFailure s := by
  unfold arenaAppend
  cases ha : s.arena with
  | none => exact .inr (.inl ⟨rfl, rfl⟩)
  | some a =>
    by_cases h1 : a.nodes.length = a.cap.toNat
    · by_cases h2 : 2 * a.cap.toNat > Config.arenaDepth
      · exact .inr (.inr ⟨a, rfl, h1, h2, by simp only [h1, h2, if_true]⟩)
      · exact .inl ⟨a, _, rfl, .inr rfl, by simp only [h1, h2, if_true, if_false]⟩
    · exact .inl ⟨a, a.cap, rfl, .inl rfl, by simp only [h1, if_false]⟩

/-- R216: reading records moves the source position and nothing else. -/
theorem readRecord_cases (s : State) :
    (∃ x, readRecord s = .ok x { s with srcPos := s.srcPos + Config.recBytes }) ∨
      ∃ k p, (k = .fileAccessFailure ∨ k = .unexpectedEndOfInput) ∧ s.srcPos ≤ p ∧
        readRecord s = .raised k { s with srcPos := p } := by
  unfold readRecord
  rcases getLE_cases 1 s with ⟨y, hy⟩ | ⟨k, p, hk, hp, hy⟩
  · rw [hy, Res.bind_ok]
    rcases getLE_cases 2 { s with srcPos := s.srcPos + 1 } with ⟨l, hl⟩ | ⟨k, p, hk, hp, hl⟩
    · rw [hl, Res.bind_ok]
      rcases getLE_cases 2 { s with srcPos := s.srcPos + 1 + 2 } with
        ⟨r, hr⟩ | ⟨k, p, hk, hp, hr⟩
      · exact .inl ⟨_, by rw [hr, Res.bind_ok]; rfl⟩
      · exact .inr ⟨k, p, hk, by simp at hp; omega, by rw [hr, Res.bind_raised]⟩
    · exact .inr ⟨k, p, hk, by simp at hp; omega, by rw [hl, Res.bind_raised]⟩
  · exact .inr ⟨k, p, hk, hp, by rw [hy, Res.bind_raised]⟩

/-- R216: `n` records take `5 n` bytes. -/
theorem readRecords_cases (n : Nat) (s : State) :
    (∃ xs, xs.length = n ∧
      readRecords n s = .ok xs { s with srcPos := s.srcPos + Config.recBytes * n }) ∨
      ∃ k p, (k = .fileAccessFailure ∨ k = .unexpectedEndOfInput) ∧ s.srcPos ≤ p ∧
        readRecords n s = .raised k { s with srcPos := p } := by
  induction n generalizing s with
  | zero => exact .inl ⟨[], rfl, rfl⟩
  | succ n ih =>
    unfold readRecords
    rcases readRecord_cases s with ⟨x, hx⟩ | ⟨k, p, hk, hp, hx⟩
    · rw [hx, Res.bind_ok]
      rcases ih { s with srcPos := s.srcPos + Config.recBytes } with
        ⟨xs, hl, hxs⟩ | ⟨k, p, hk, hp, hxs⟩
      · refine .inl ⟨x :: xs, by simp [hl], ?_⟩
        rw [hxs, Res.bind_ok]
        simp only [Nat.mul_add, Nat.mul_one, Nat.add_assoc, Nat.add_comm Config.recBytes]
      · exact .inr ⟨k, p, hk, by simp at hp; omega, by rw [hxs, Res.bind_raised]⟩
    · exact .inr ⟨k, p, hk, hp, by rw [hx, Res.bind_raised]⟩

end Sys2Proof.Machine
end

