-- ==== Sys2Proof/Laws/PerInstr.lean ====
section
/-! SUPPORT. Laws said once for each constructor of `Instr`: the fields of a command's word pass
every check of 30_encoding.md R94. -/

/-- 30_encoding.md R94, R97: a command encodes to fields with an assigned opcode, `rsvd` 0 and
every unused operand 0. -/
def Sys2Proof.Laws.EncodesLegal.Statement (i : Sys2Proof.Instr) : Prop :=
  (Sys2Proof.encodeFields i).wf = true

theorem Sys2Proof.Laws.EncodesLegal.compress :
    Sys2Proof.Laws.EncodesLegal.Statement .compress := by
  simp [Sys2Proof.Laws.EncodesLegal.Statement, Sys2Proof.encodeFields, Sys2Proof.Fields.wf,
    Sys2Proof.assignedOpcodes, Sys2Proof.opcodesUsingArg0, Sys2Proof.opcodesUsingArg1]

theorem Sys2Proof.Laws.EncodesLegal.decompress :
    Sys2Proof.Laws.EncodesLegal.Statement .decompress := by
  simp [Sys2Proof.Laws.EncodesLegal.Statement, Sys2Proof.encodeFields, Sys2Proof.Fields.wf,
    Sys2Proof.assignedOpcodes, Sys2Proof.opcodesUsingArg0, Sys2Proof.opcodesUsingArg1]

theorem Sys2Proof.Laws.EncodesLegal.ftCount :
    Sys2Proof.Laws.EncodesLegal.Statement .ftCount := by
  simp [Sys2Proof.Laws.EncodesLegal.Statement, Sys2Proof.encodeFields, Sys2Proof.Fields.wf,
    Sys2Proof.assignedOpcodes, Sys2Proof.opcodesUsingArg0, Sys2Proof.opcodesUsingArg1]

theorem Sys2Proof.Laws.EncodesLegal.pqInit (cap : BitVec 16) :
    Sys2Proof.Laws.EncodesLegal.Statement (.pqInit cap) := by
  simp [Sys2Proof.Laws.EncodesLegal.Statement, Sys2Proof.encodeFields, Sys2Proof.Fields.wf,
    Sys2Proof.assignedOpcodes, Sys2Proof.opcodesUsingArg0, Sys2Proof.opcodesUsingArg1]

theorem Sys2Proof.Laws.EncodesLegal.pqInsert (idx : BitVec 16) (freq : Sys2Proof.Word32) :
    Sys2Proof.Laws.EncodesLegal.Statement (.pqInsert idx freq) := by
  simp [Sys2Proof.Laws.EncodesLegal.Statement, Sys2Proof.encodeFields, Sys2Proof.Fields.wf,
    Sys2Proof.assignedOpcodes, Sys2Proof.opcodesUsingArg0, Sys2Proof.opcodesUsingArg1]

theorem Sys2Proof.Laws.EncodesLegal.pqExtract2 :
    Sys2Proof.Laws.EncodesLegal.Statement .pqExtract2 := by
  simp [Sys2Proof.Laws.EncodesLegal.Statement, Sys2Proof.encodeFields, Sys2Proof.Fields.wf,
    Sys2Proof.assignedOpcodes, Sys2Proof.opcodesUsingArg0, Sys2Proof.opcodesUsingArg1]

theorem Sys2Proof.Laws.EncodesLegal.tbLeaves :
    Sys2Proof.Laws.EncodesLegal.Statement .tbLeaves := by
  simp [Sys2Proof.Laws.EncodesLegal.Statement, Sys2Proof.encodeFields, Sys2Proof.Fields.wf,
    Sys2Proof.assignedOpcodes, Sys2Proof.opcodesUsingArg0, Sys2Proof.opcodesUsingArg1]

theorem Sys2Proof.Laws.EncodesLegal.tbBuild :
    Sys2Proof.Laws.EncodesLegal.Statement .tbBuild := by
  simp [Sys2Proof.Laws.EncodesLegal.Statement, Sys2Proof.encodeFields, Sys2Proof.Fields.wf,
    Sys2Proof.assignedOpcodes, Sys2Proof.opcodesUsingArg0, Sys2Proof.opcodesUsingArg1]

theorem Sys2Proof.Laws.EncodesLegal.cgGen :
    Sys2Proof.Laws.EncodesLegal.Statement .cgGen := by
  simp [Sys2Proof.Laws.EncodesLegal.Statement, Sys2Proof.encodeFields, Sys2Proof.Fields.wf,
    Sys2Proof.assignedOpcodes, Sys2Proof.opcodesUsingArg0, Sys2Proof.opcodesUsingArg1]

theorem Sys2Proof.Laws.EncodesLegal.bpPack :
    Sys2Proof.Laws.EncodesLegal.Statement .bpPack := by
  simp [Sys2Proof.Laws.EncodesLegal.Statement, Sys2Proof.encodeFields, Sys2Proof.Fields.wf,
    Sys2Proof.assignedOpcodes, Sys2Proof.opcodesUsingArg0, Sys2Proof.opcodesUsingArg1]

theorem Sys2Proof.Laws.EncodesLegal.buUnpack :
    Sys2Proof.Laws.EncodesLegal.Statement .buUnpack := by
  simp [Sys2Proof.Laws.EncodesLegal.Statement, Sys2Proof.encodeFields, Sys2Proof.Fields.wf,
    Sys2Proof.assignedOpcodes, Sys2Proof.opcodesUsingArg0, Sys2Proof.opcodesUsingArg1]

theorem Sys2Proof.Laws.EncodesLegal.serWrite :
    Sys2Proof.Laws.EncodesLegal.Statement .serWrite := by
  simp [Sys2Proof.Laws.EncodesLegal.Statement, Sys2Proof.encodeFields, Sys2Proof.Fields.wf,
    Sys2Proof.assignedOpcodes, Sys2Proof.opcodesUsingArg0, Sys2Proof.opcodesUsingArg1]

theorem Sys2Proof.Laws.EncodesLegal.serRead :
    Sys2Proof.Laws.EncodesLegal.Statement .serRead := by
  simp [Sys2Proof.Laws.EncodesLegal.Statement, Sys2Proof.encodeFields, Sys2Proof.Fields.wf,
    Sys2Proof.assignedOpcodes, Sys2Proof.opcodesUsingArg0, Sys2Proof.opcodesUsingArg1]

theorem Sys2Proof.Laws.EncodesLegal.release :
    Sys2Proof.Laws.EncodesLegal.Statement .release := by
  simp [Sys2Proof.Laws.EncodesLegal.Statement, Sys2Proof.encodeFields, Sys2Proof.Fields.wf,
    Sys2Proof.assignedOpcodes, Sys2Proof.opcodesUsingArg0, Sys2Proof.opcodesUsingArg1]
end

