-- ==== Sys2Proof/Laws/Terms.lean ====
section
/-! SUPPORT. What the terms of Safety.lean say of the machine's operations: the room a sink has, and
one merge. -/

namespace Sys2Proof.Machine

/-- 20_memory.md R65: a put uses up one byte of room. -/
theorem sinkRoom_append (s : State) (bytes : List Byte) :
    sinkRoom { s with snk := s.snk ++ bytes } = (sinkRoom s).map fun g => g - bytes.length := by
  by_cases hb : s.snkBound = true
  · cases hf : s.snkFailAt <;> simp [sinkRoom, hb, hf, Nat.sub_sub]
  · simp [sinkRoom, hb]

/-- 20_memory.md R65: with room for a byte a put appends it. -/
theorem snkPut_of_room {s : State} (b : Byte) (h : RoomFor 1 s) :
    snkPut b s = .ok () { s with snk := s.snk ++ [b] } := by
  by_cases hb : s.snkBound = true
  · cases hf : s.snkFailAt with
    | none => simp [snkPut, hb, hf, failsAt]
    | some g =>
      have hg : 1 ≤ g - s.snk.length := h _ (by simp [sinkRoom, hb, hf])
      have hl : ¬ g ≤ s.snk.length := by omega
      simp [snkPut, hb, hf, failsAt, hl]
  · have h0 : 1 ≤ 0 := h 0 (by simp [sinkRoom, hb])
    omega

/-- 20_memory.md R65: with no room a put fails. -/
theorem snkPut_of_no_room {s : State} (b : Byte) (h : sinkRoom s = some 0) :
    snkPut b s = .raised .fileAccessFailure s := by
  by_cases hb : s.snkBound = true
  · cases hf : s.snkFailAt with
    | none => simp [sinkRoom, hb, hf] at h
    | some g =>
      have hl : g ≤ s.snk.length := by
        simp [sinkRoom, hb, hf] at h
        omega
      simp [snkPut, hb, hf, failsAt, hl]
  · simp [snkPut, hb]

/-- 42_tree_builder.md R165: a pass of the builder's loop on a mergeable pair is that merge. -/
theorem mergeStep_of_mergeOnce {s t : State} (h : mergeOnce s = some t) :
    mergeStep s = .ok () t := by
  unfold mergeOnce at h
  cases ha : s.arena with
  | none => simp [ha] at h
  | some a =>
    cases hq : s.pq with
    | none => simp [ha, hq] at h
    | some q =>
      cases h1 : heapPop q.entries with
      | none => simp [ha, hq, h1] at h
      | some p =>
        obtain ⟨x, g⟩ := p
        cases h2 : heapPop g with
        | none => simp [ha, hq, h1, h2] at h
        | some p =>
          obtain ⟨y, g'⟩ := p
          have hl1 := (heapPop_some h1).2.2
          have hl2 := (heapPop_some h2).2.2
          simp only [ha, hq, h1, h2, mergeable, Option.ite_none_right_eq_some, Bool.and_eq_true,
            Bool.or_eq_true, decide_eq_true_eq, Option.some.injEq] at h
          obtain ⟨⟨hcap, ⟨⟨hx, hy⟩, hs⟩, hr⟩, rfl⟩ := h
          have hf : x.freq + y.freq = BitVec.ofNat 32 (x.freq.toNat + y.freq.toNat) := by
            apply BitVec.eq_of_toNat_eq
            simp
          have hxi : childOf x.idx = BitVec.ofNat 16 x.idx.toNat := by
            apply BitVec.eq_of_toNat_eq
            simp [childOf]
          have hyi : childOf y.idx = BitVec.ofNat 16 y.idx.toNat := by
            apply BitVec.eq_of_toNat_eq
            simp [childOf]
          have hne : g'.length ≠ q.cap.toNat := by omega
          have hov : ¬ Config.freqBound ≤ x.freq.toNat + y.freq.toNat := by omega
          have hnx : ¬ a.nodes.length ≤ x.idx.toNat := by omega
          have hny : ¬ a.nodes.length ≤ y.idx.toNat := by omega
          have hx2 : heapExtract2 s = .ok (x, y) { s with pq := some { q with entries := g' } } := by
            simp [heapExtract2, hq, h1, h2]
          unfold mergeStep
          rw [hx2, Res.bind_ok]
          simp only [arenaLen, ha, hnx, hny, or_self, if_false, ge_iff_le, hov]
          rcases hr with hr | ⟨hr, hd⟩
          · have hne' : a.nodes.length ≠ a.cap.toNat := by omega
            simp only [arenaAppend, hne', if_false, Res.andThen_ok, heapInsert, hne,
              List.length_append, List.length_singleton, Nat.add_sub_cancel, merged, hf, hxi, hyi,
              Config.internalSym]
            rfl
          · have hd' : ¬ Config.arenaDepth < 2 * a.cap.toNat := by omega
            simp only [arenaAppend, hr, hd', if_true, if_false, Res.andThen_ok,
              heapInsert, hne, List.length_append, List.length_singleton, Nat.add_sub_cancel,
              merged, hf, hxi, hyi, Config.internalSym]
            rfl

end Sys2Proof.Machine
end

