-- ==== Sys2Proof/Tests/Slice0.lean ====
section
/-! SUPPORT. The model's own tests: decoding of words written out from 30_encoding.md R92 and from
the command rules, the refusals of `Fields.wf`, one step per test with the results of
95_test_vectors.md, and for each statement with hypotheses a state that meets them. -/

namespace Sys2Proof.Tests

set_option Elab.async false

open Sys2Proof.Machine

/-! Helpers. -/

/-- What `f` reads off a next state. -/
def outcome {α : Type} (o : Out) (f : State → α) : Option α :=
  match o with
  | .next t => some (f t)
  | .fault _ => none
  | .refused _ => none

theorem next_of_outcome {α : Type} {o : Out} {f : State → α} {v : α} (h : outcome o f = some v) :
    ∃ t, o = .next t ∧ f t = v := by
  cases o with
  | next t => exact ⟨t, rfl, by simpa [outcome] using h⟩
  | fault _ => simp [outcome] at h
  | refused _ => simp [outcome] at h

/-- "fresh" of 95_test_vectors.md: after reset, a source and an unlimited sink bound. -/
def fed (bytes : List Byte) : State :=
  { State.reset with srcBound := true, src := bytes, snkBound := true }

/-- The bytes of "aaab" (S1). -/
def aaab : List Byte := [0x61, 0x61, 0x61, 0x62]

/-- The 21 bytes of header and records of S1. -/
def aaabHead : List Byte :=
  [0x04, 0x00, 0x00, 0x00, 0x03, 0x00, 0x00, 0x01, 0x00, 0x00, 0x00] ++
  [0x61, 0xFF, 0xFF, 0xFF, 0xFF, 0x62, 0xFF, 0xFF, 0xFF, 0xFF]

/-- The final tree of S1 (V-SER-7). -/
def aaabTree : List FinalNode :=
  [⟨0x61, 0xFFFF, 0xFFFF⟩, ⟨0x62, 0xFFFF, 0xFFFF⟩, ⟨0x00, 1, 0⟩]

/-- S3's file up to its payload (V-BU-5, V-BU-6). -/
def zzzzHead : List Byte :=
  [0x04, 0x00, 0x00, 0x00, 0x02, 0x00, 0x00, 0x00, 0x00, 0xFF, 0xFF, 0x7A, 0xFF, 0xFF, 0xFF, 0xFF]

/-- The final tree of S3. -/
def zzzzTree : List FinalNode :=
  [⟨0x7A, 0xFFFF, 0xFFFF⟩, ⟨0x00, 0, 0xFFFF⟩]

/-- The frequency table of "aaab" (V-FT-1). -/
def aaabTable : FreqTable :=
  tableSet (tableSet (Vector.replicate 256 0) 0x61 3) 0x62 1

/-- The code table of "aaab" (V-CG-1). -/
def aaabCode : CodeTable :=
  tableSet (tableSet (Vector.replicate 256 []) 0x61 [true]) 0x62 [false]

/-- After V-FT-1. -/
def counted : State :=
  { fed aaab with ft := some aaabTable, totalChars := 4, nDistinct := 2, srcPos := 4, done := true }

/-- The leaves of V-TB-1. -/
def leaves : List WorkNode :=
  [⟨3, 0x61, 0xFFFF, 0xFFFF, false⟩, ⟨1, 0x62, 0xFFFF, 0xFFFF, false⟩]

/-- After V-TB-1. -/
def leaved : State :=
  { counted with arena := some ⟨leaves, 2⟩, pq := some ⟨2, [⟨1, 1⟩, ⟨0, 3⟩]⟩ }

/-- The arena of V-TB-2. -/
def builtArena : Arena :=
  ⟨leaves ++ [⟨4, 0x00, 1, 0, false⟩], 4⟩

/-- After V-TB-2. -/
def built : State :=
  { leaved with arena := some builtArena, pq := some ⟨2, [⟨2, 4⟩]⟩, root := 2, rootValid := true }

/-- After V-CG-1. -/
def coded : State :=
  { built with code := some aaabCode }

/-- After V-SER-7, with the given bytes behind the records. -/
def loaded (more : List Byte) : State :=
  { fed (aaabHead ++ more) with
    ftree := some aaabTree, totalChars := 4, treeSize := 3, srcPos := 21, done := true }

/-- A queue and nothing else. -/
def queued (cap : BitVec 9) (entries : List HeapEntry) : State :=
  { State.reset with pq := some ⟨cap, entries⟩ }

/-! The ill-formed words, one for each check of `Fields.wf`, with what decoding answers (R93). -/

theorem test_wf_refuses_opcode :
    (fieldsOf 0x0000000000000000#64).wf = false ∧
      decode 0x0000000000000000#64 = .reject .unknownOption := by decide

theorem test_wf_refuses_rsvd :
    (fieldsOf 0x0101000000000000#64).wf = false ∧
      decode 0x0101000000000000#64 = .reject .invalidParameter := by decide

theorem test_wf_refuses_arg0 :
    (fieldsOf 0x0100000100000000#64).wf = false ∧
      decode 0x0100000100000000#64 = .reject .invalidParameter := by decide

theorem test_wf_refuses_arg1 :
    (fieldsOf 0x2000000200000001#64).wf = false ∧
      decode 0x2000000200000001#64 = .reject .invalidParameter := by decide

/-- 30_encoding.md R93: the opcode is tested first. -/
theorem test_unknown_opcode_before_rsvd :
    decode 0x7701000000000000#64 = .reject .unknownOption := by decide

/-! Each constructor's decoding from its word, from 30_encoding.md R90 and R92. -/

theorem test_decode_compress : decode 0x0100000000000000#64 = .ok .compress := by decide
theorem test_decode_decompress : decode 0x0200000000000000#64 = .ok .decompress := by decide
theorem test_decode_ftCount : decode 0x1000000000000000#64 = .ok .ftCount := by decide
theorem test_decode_pqInit : decode 0x2001010000000000#64 = .reject .invalidParameter ∧
    decode 0x2000010100000000#64 = .ok (.pqInit 257) := by decide
theorem test_decode_pqInsert :
    decode 0x2100800180000003#64 = .ok (.pqInsert 0x8001 0x80000003) := by decide
theorem test_decode_pqExtract2 : decode 0x2200000000000000#64 = .ok .pqExtract2 := by decide
theorem test_decode_tbLeaves : decode 0x3000000000000000#64 = .ok .tbLeaves := by decide
theorem test_decode_tbBuild : decode 0x3100000000000000#64 = .ok .tbBuild := by decide
theorem test_decode_cgGen : decode 0x4000000000000000#64 = .ok .cgGen := by decide
theorem test_decode_bpPack : decode 0x5000000000000000#64 = .ok .bpPack := by decide
theorem test_decode_buUnpack : decode 0x5100000000000000#64 = .ok .buUnpack := by decide
theorem test_decode_serWrite : decode 0x6000000000000000#64 = .ok .serWrite := by decide
theorem test_decode_serRead : decode 0x6100000000000000#64 = .ok .serRead := by decide
theorem test_decode_release : decode 0xF000000000000000#64 = .ok .release := by decide

/-- The same word as the opcode table numbers it, and as the host's next action after reset. -/
theorem test_table_word :
    decodeTableWord 64 0x2000000200000000 = some (.pqInit 2) ∧
      outcome (step (State.reset.withFetchWord 64 0x2000000200000000)) (fun t => (t.pq, t.reply))
        = some (some ⟨2, []⟩, .result .ok) := by decide

/-! One step each, with the results of 95_test_vectors.md. -/

/-- V-TOP-1 -/
theorem test_compress_aaab :
    outcome (exec .compress (fed aaab)) (fun t => (t.snk, statusWord t, t.srcPos, t.result)) =
      some (aaabHead ++ [0xE0], 0x00000100, 4, .ok) := by decide +kernel

/-- V-TOP-5 -/
theorem test_compress_one_byte :
    outcome (exec .compress (fed [0x61])) (fun t => (t.snk, t.result)) =
      some ([0x01, 0x00, 0x00, 0x00, 0x02, 0x00, 0x00, 0x00, 0x00, 0xFF, 0xFF, 0x61, 0xFF, 0xFF,
        0xFF, 0xFF, 0x00], .ok) := by decide +kernel

/-- S1 and V-BU-3 -/
theorem test_decompress_aaab :
    outcome (exec .decompress (fed (aaabHead ++ [0xE0, 0xAA])))
      (fun t => (t.snk, statusWord t, t.srcPos)) = some (aaab, 0x00000100, 22) := by decide +kernel

/-- S2 -/
theorem test_decompress_tree_size_one :
    outcome (exec .decompress
        (fed [0x04, 0x00, 0x00, 0x00, 0x01, 0x00, 0x61, 0xFF, 0xFF, 0xFF, 0xFF, 0x00]))
      (fun t => (statusWord t, t.totalChars, t.treeSize, t.srcPos)) =
      some (0x00000103, 4, 1, 6) := by decide +kernel

/-- V-FT-1 -/
theorem test_ftCount_aaab :
    outcome (exec .ftCount (fed aaab))
      (fun t => (t.ft.map fun ft => (tableGet ft 0x61, tableGet ft 0x62, tableGet ft 0xFF),
        t.nDistinct, statusWord t)) = some (some (3, 1, 0), 2, 0x00010100) := by decide +kernel

/-- V-FT-7 -/
theorem test_ftCount_fails_before_eof :
    outcome (exec .ftCount { fed aaab with srcFailAt := some 4 })
      (fun t => (t.srcPos, statusWord t)) = some (4, 0x00000105) := by decide +kernel

/-- V-PQ-9 -/
theorem test_pqInit_256 :
    outcome (exec (.pqInit 256) State.reset) (fun t => hostReg t 6) = some 256 ∧
      outcome (exec (.pqInit 257) State.reset) (fun t => statusWord t) = some 0x00000101 := by
  decide +kernel

/-- V-PQ-11 -/
theorem test_pqInit_drops :
    outcome (exec (.pqInit 2) (queued 2 [⟨0, 7⟩])) (fun t => t.pq) = some (some ⟨2, []⟩) := by
  decide +kernel

/-- V-PQ-2, the fourth insert -/
theorem test_pqInsert_sifts_up :
    outcome (exec (.pqInsert 3 1) (queued 5 [⟨2, 1⟩, ⟨0, 5⟩, ⟨1, 2⟩])) (fun t => t.pq) =
      some (some ⟨5, [⟨2, 1⟩, ⟨3, 1⟩, ⟨1, 2⟩, ⟨0, 5⟩]⟩) := by decide +kernel

/-- V-PQ-7 -/
theorem test_pqInsert_full :
    outcome (exec (.pqInsert 1 1) (queued 1 [⟨0, 1⟩])) (fun t => (statusWord t, hostReg t 6)) =
      some (0x00000108, 0) := by decide +kernel

/-- V-PQ-3, the first extraction -/
theorem test_pqExtract2_order :
    outcome (exec .pqExtract2 (queued 5 [⟨2, 1⟩, ⟨3, 1⟩, ⟨1, 2⟩, ⟨0, 5⟩, ⟨4, 2⟩]))
      (fun t => (t.ex0Idx, t.ex0Freq, t.ex1Idx, t.ex1Freq, t.pq)) =
      some (2, 1, 3, 1, some ⟨5, [⟨4, 2⟩, ⟨0, 5⟩, ⟨1, 2⟩]⟩) := by decide +kernel

/-- V-PQ-4: not first-in first-out -/
theorem test_pqExtract2_ties :
    outcome (exec .pqExtract2 (queued 3 [⟨0, 1⟩, ⟨1, 1⟩, ⟨2, 1⟩]))
      (fun t => (t.ex0Idx, t.ex1Idx, t.pq)) = some (0, 2, some ⟨3, [⟨1, 1⟩]⟩) := by
  decide +kernel

/-- V-TB-1 -/
theorem test_tbLeaves_aaab :
    outcome (exec .tbLeaves counted) (fun t => (t.arena, t.pq, statusWord t)) =
      some (some ⟨leaves, 2⟩, some ⟨2, [⟨1, 1⟩, ⟨0, 3⟩]⟩, 0x00070100) := by decide +kernel

/-- V-TB-9 -/
theorem test_tbLeaves_no_table :
    outcome (exec .tbLeaves State.reset) statusWord = some 0x00000104 := by decide +kernel

/-- V-TB-2 -/
theorem test_tbBuild_aaab :
    outcome (exec .tbBuild leaved) (fun t => (t.arena, t.pq, t.root, statusWord t)) =
      some (some builtArena, some ⟨2, [⟨2, 4⟩]⟩, 2, 0x000F0100) := by decide +kernel

/-- V-TB-7 -/
theorem test_tbBuild_one_leaf :
    outcome (exec .tbBuild { State.reset with
        arena := some ⟨[⟨4, 0x7A, 0xFFFF, 0xFFFF, false⟩], 1⟩, pq := some ⟨1, [⟨0, 4⟩]⟩ })
      (fun t => (t.arena, t.pq, t.root)) =
      some (some ⟨[⟨4, 0x7A, 0xFFFF, 0xFFFF, false⟩, ⟨4, 0x00, 0, 0xFFFF, false⟩], 2⟩,
        some ⟨1, [⟨1, 4⟩]⟩, 1) := by decide +kernel

/-- V-CG-1 -/
theorem test_cgGen_aaab :
    outcome (exec .cgGen built)
      (fun t => (t.code.map fun c => (tableGet c 0x61, tableGet c 0x62, tableGet c 0x63),
        statusWord t)) = some (some ([true], [false], []), 0x001F0100) := by decide +kernel

/-- V-CG-8 -/
theorem test_cgGen_not_built :
    outcome (exec .cgGen leaved) statusWord = some 0x00000104 := by decide +kernel

/-- V-BP-1 -/
theorem test_bpPack_aaab :
    outcome (exec .bpPack coded) (fun t => (t.snk, t.srcPos, t.result)) =
      some ([0xE0], 4, .ok) := by decide +kernel

/-- V-BP-8 -/
theorem test_bpPack_no_code :
    outcome (exec .bpPack { coded with src := [0x61, 0x62, 0x63], srcPos := 0 })
      (fun t => (t.snk, t.srcPos, statusWord t)) = some ([], 3, 0x00000103) := by decide +kernel

/-- V-BU-2 -/
theorem test_buUnpack_ignores_padding :
    outcome (exec .buUnpack (loaded [0xEF])) (fun t => (t.snk, t.srcPos, t.result)) =
      some (aaab, 22, .ok) := by decide +kernel

/-- V-BU-6 -/
theorem test_buUnpack_missing_child :
    outcome (exec .buUnpack { fed (zzzzHead ++ [0x10]) with
        ftree := some zzzzTree, totalChars := 4, treeSize := 2, srcPos := 16 })
      (fun t => (t.snk, statusWord t)) = some ([], 0x00000103) := by decide +kernel

/-- V-SER-1 -/
theorem test_serWrite_aaab :
    outcome (exec .serWrite coded) (fun t => (t.snk, t.treeSize, t.result)) =
      some (aaabHead, 3, .ok) := by decide +kernel

/-- V-SER-6 -/
theorem test_serWrite_sink_fails :
    outcome (exec .serWrite { built with snkFailAt := some 6 })
      (fun t => (t.snk, t.treeSize, statusWord t)) = some ([], 3, 0x00000105) := by decide +kernel

/-- V-SER-7 -/
theorem test_serRead_aaab :
    outcome (exec .serRead (fed (aaabHead ++ [0xE0])))
      (fun t => (t.ftree, t.totalChars, t.srcPos, statusWord t)) =
      some (some aaabTree, 4, 21, 0x00200100) := by decide +kernel

/-- V-SER-17 -/
theorem test_serRead_big_endian :
    outcome (exec .serRead (fed [0x00, 0x00, 0x00, 0x04, 0x00, 0x03, 0x00]))
      (fun t => (t.totalChars, t.treeSize, statusWord t)) =
      some (0x04000000, 0x0300, 0x00000103) := by decide +kernel

/-- 46_top_level.md R236 -/
theorem test_release_clears_flags :
    outcome (exec .release coded) (fun t => (statusWord t, t.totalChars, t.root)) =
      some (0x00000100, 4, 2) := by decide +kernel

/-- V-DEC-1: a rejected word performs the failure entry. -/
theorem test_step_rejects :
    outcome (step { coded with hostq := [.command 0, .reset], snk := [0x00] })
      (fun t => (statusWord t, t.snk, t.hostq)) = some (0x00000109, [], [.reset]) := by
  decide +kernel

/-! For each statement with hypotheses, a state and operands that meet them together; where a
statement has several clauses, one for each. The name is the statement's. -/

theorem wit_WordsDecodeExactlyWhenLegal :
    wordLegal 0x21FFFFFF00000000#64 = false ∧ wordLegal 0x2100FFFFFFFFFFFF#64 = true ∧
    (fieldsOf 0x03FFFFFFFFFFFFFF#64).opcode ∉ assignedOpcodes ∧
    (fieldsOf 0xF000000000000001#64).opcode ∈ assignedOpcodes ∧
    wordLegal 0xF000000000000001#64 = false := by decide

theorem wit_StepIssuesDecodedCommand :
    ∃ (s : State) (w : CmdWord) (rest : List HostAction) (i : Instr),
      s.hostq = .command w :: rest ∧ decode w = .ok i :=
  ⟨{ coded with hostq := [.command 0xF000000000000000#64, .readReg 0] }, _, _, .release, rfl,
    by decide⟩

theorem wit_IllegalWordsFail :
    ((fieldsOf 0xAB00000000000000#64).opcode ∉ assignedOpcodes) ∧
    (fieldsOf 0xF000000000000001#64).opcode ∈ assignedOpcodes ∧
    (fieldsOf 0xF000000000000001#64).wf = false ∧
    ∃ s rest, State.hostq s = .command 0xAB00000000000000#64 :: rest ∧ s.snkBound = true :=
  ⟨by decide, by decide, by decide, { coded with hostq := [.command 0xAB00000000000000#64] }, [],
    rfl, rfl⟩

theorem wit_HostActionsHaveTheirEffect :
    (∃ s : State, s.hostq = .bindSource aaab (some 2) :: []) ∧
    (∃ s : State, s.hostq = .bindSink none :: []) ∧ (∃ s : State, s.hostq = .unbind :: []) ∧
    (∃ s : State, s.hostq = .readSink :: []) ∧ (∃ s : State, s.hostq = .readReg 15 :: []) ∧
    ∃ s : State, s.hostq = [] :=
  ⟨⟨{ coded with hostq := [.bindSource aaab (some 2)] }, rfl⟩,
    ⟨{ coded with hostq := [.bindSink none] }, rfl⟩, ⟨{ coded with hostq := [.unbind] }, rfl⟩,
    ⟨{ coded with hostq := [.readSink] }, rfl⟩, ⟨{ coded with hostq := [.readReg 15] }, rfl⟩,
    ⟨coded, rfl⟩⟩

theorem wit_ResetLeavesNothing : ∃ (s : State) (rest : List HostAction),
    s.hostq = .reset :: rest ∧ s.done = true ∧ s.code ≠ none :=
  ⟨{ coded with hostq := [.reset, .readSink] }, [.readSink], rfl, rfl, by simp [coded]⟩

/-- The invariant of a state that holds a queue, a tree and a code table. -/
theorem coded_inv : coded.Inv where
  result_before_done := fun h => by cases h
  result_known := fun h => by cases h
  ft_wf := by
    intro ft h
    cases h
    decide +kernel
  arena_wf := by
    intro a h
    cases h
    decide +kernel
  queue_wf := by
    intro q h
    cases h
    decide +kernel
  root_wf := fun _ => by decide
  code_wf := by
    intro c h
    cases h
    exact ⟨rfl, by decide +kernel⟩
  ftree_wf := fun nodes h => by cases h
  src_pos_le := by decide
  snk_unbound := fun h => by cases h
  snk_fits := by decide

/-- The invariant does not look at the host's list. -/
theorem coded_inv_with (q : List HostAction) : State.Inv { coded with hostq := q } :=
  ⟨coded_inv.1, coded_inv.2, coded_inv.3, coded_inv.4, coded_inv.5, coded_inv.6, coded_inv.7,
    coded_inv.8, coded_inv.9, coded_inv.10, coded_inv.11⟩

theorem wit_StepKeepsInvariant :
    ∃ s t : State, s.Inv ∧ step s = .next t ∧ t.snk = aaabHead := by
  obtain ⟨t, ht, hs⟩ := next_of_outcome (f := State.snk) (v := aaabHead)
    (o := step { coded with hostq := [.command 0x6000000000000000#64] }) (by decide +kernel)
  exact ⟨_, t, coded_inv_with _, ht, hs⟩

theorem wit_StepAlwaysAnswers :
    ∃ s : State, s.Inv ∧ s.hostq = [.command 0x4000000000000000#64] :=
  ⟨_, coded_inv_with _, rfl⟩

theorem wit_FailedCommandLeavesNothing :
    (∃ t, exec .tbLeaves State.reset = .next t ∧ t.result = .error .invalidArguments) ∧
    (∃ t, exec .serWrite { built with snkFailAt := some 6 } = .next t ∧
      t.result = .error .fileAccessFailure) ∧ built.snkBound = true ∧
    State.reset.snkBound = false :=
  ⟨next_of_outcome (by decide +kernel), next_of_outcome (by decide +kernel), rfl, rfl⟩

theorem wit_UnknownErrorNeverReturned :
    ∃ t, exec .buUnpack State.reset = .next t ∧ t.result = .error .invalidArguments :=
  next_of_outcome (by decide +kernel)

theorem wit_CommandsKeepTheHostsSide :
    ∃ t, exec .cgGen { built with hostq := [.readSink] } = .next t ∧ t.result = .ok :=
  next_of_outcome (by decide +kernel)

theorem wit_ExtractionRegistersHeldForHost :
    (∃ t, exec .tbBuild leaved = .next t ∧ t.result = .ok) ∧
    (∃ t, exec .pqExtract2 State.reset = .next t ∧ t.result ≠ .ok) ∧
    ∃ t, exec .pqExtract2 leaved = .next t ∧ t.result = .ok := by
  refine ⟨next_of_outcome (by decide +kernel), ?_, next_of_outcome (by decide +kernel)⟩
  obtain ⟨t, h, hr⟩ := next_of_outcome (f := State.result) (v := .error .queueNotInitialized)
    (o := exec .pqExtract2 State.reset) (by decide +kernel)
  exact ⟨t, h, by simp [hr]⟩

theorem wit_InformationRegistersWriters :
    (∃ t, exec .serWrite coded = .next t ∧ t.result = .ok) ∧
    Instr.serWrite ∉ [Instr.ftCount, .serRead, .compress, .decompress] ∧
    Instr.serWrite ∉ [Instr.ftCount, .compress] ∧ Instr.serWrite ∉ [Instr.tbBuild, .compress] ∧
    (∃ t, exec .cgGen built = .next t ∧ t.result = .ok) ∧
    Instr.cgGen ∉ [Instr.serWrite, .serRead, .compress, .decompress] :=
  ⟨next_of_outcome (by decide +kernel), by decide, by decide, by decide,
    next_of_outcome (by decide +kernel), by decide⟩

theorem wit_StructuresKeptByOtherCommands :
    (∃ t, exec .bpPack coded = .next t ∧ t.result = .ok) ∧ releases .bpPack = false ∧
    Instr.bpPack ≠ .ftCount ∧ writesArena .bpPack = false ∧ writesQueue .bpPack = false ∧
    Instr.bpPack ≠ .tbLeaves ∧ Instr.bpPack ≠ .tbBuild ∧ Instr.bpPack ≠ .cgGen ∧
    Instr.bpPack ≠ .serRead :=
  ⟨next_of_outcome (by decide +kernel), by decide⟩

theorem wit_StreamsMovedOnlyByTheirCommands :
    ((∃ t, exec .cgGen built = .next t ∧ t.result = .ok) ∧ readsSource .cgGen = false ∧
      Instr.cgGen ≠ .compress ∧ Instr.cgGen ≠ .decompress ∧ appendsToSink .cgGen = false) ∧
    (∃ t, exec .bpPack coded = .next t ∧ t.result = .ok) ∧ appendsToSink .bpPack = true :=
  ⟨⟨next_of_outcome (by decide +kernel), by decide⟩, next_of_outcome (by decide +kernel), rfl⟩

theorem wit_MissingStructureFails :
    State.reset.ft = none ∧ State.reset.arena = none ∧ leaved.rootValid = false ∧
    built.code = none ∧ State.reset.ftree = none ∧
    ∃ s a, State.arena s = some a ∧ s.root.toNat + 1 ≠ a.nodes.length :=
  ⟨rfl, rfl, rfl, rfl, rfl, { built with root := 0 }, builtArena, rfl, by decide⟩

theorem wit_FtCountCountsSource :
    (SourceServes (fed [0x61]) ∧ 1 ≤ (fed [0x61]).src.length ∧
      (fed [0x61]).src.length ≤ Config.maxInput) ∧
    SourceServes { fed aaab with srcFailAt := some 5 } := by decide

/-- A source of 2^32 bytes (V-FT-9). -/
theorem long_source :
    Config.maxInput < (fed (List.replicate 4294967296 0x00)).src.length := by
  simp only [fed, List.length_replicate]
  decide

theorem wit_FtCountFailures :
    State.reset.srcBound = false ∧
    (∃ s : State, s.srcBound = true ∧ s.srcFailAt = some 4 ∧ 4 ≤ s.src.length ∧
      4 ≤ Config.maxInput) ∧
    (SourceServes (fed []) ∧ (fed []).src = []) ∧
    ∃ s : State, s.srcBound = true ∧ allows s.srcFailAt (Config.maxInput + 1) = true ∧
      Config.maxInput < s.src.length :=
  ⟨rfl, ⟨{ fed aaab with srcFailAt := some 4 }, rfl, rfl, by decide, by decide⟩, by decide,
    ⟨_, rfl, rfl, long_source⟩⟩

theorem wit_PqInitConstructsEmptyQueue :
    (1 ≤ (1#16).toNat ∧ (256#16).toNat ≤ 256) ∧ (0#16).toNat = 0 ∧ 256 < (257#16).toNat := by
  decide

theorem wit_PqInsertKeepsHeap : ∃ (s : State) (q : Queue), (511#16).toNat ≤ 511 ∧ s.pq = some q ∧
    q.entries.length < q.cap.toNat ∧ HeapOrdered q.entries :=
  ⟨queued 5 [⟨2, 1⟩, ⟨0, 5⟩, ⟨1, 2⟩], _, by decide, rfl, by decide, by decide⟩

theorem wit_SiftUpSwapsOnlyStrictlyGreater : ∃ (h : List HeapEntry) (e p f : HeapEntry), h ≠ [] ∧
    h[(h.length - 1) / 2]? = some p ∧ p.freq.toNat ≤ e.freq.toNat ∧
    f.freq.toNat < p.freq.toNat :=
  ⟨[⟨2, 1⟩, ⟨0, 5⟩, ⟨1, 5⟩], ⟨3, 5⟩, ⟨0, 5⟩, ⟨3, 4⟩, by decide, rfl, by decide, by decide⟩

theorem wit_PqInsertFailures :
    511 < (512#16).toNat ∧ ((511#16).toNat ≤ 511 ∧ State.reset.pq = none) ∧
    ∃ s q, State.pq s = some q ∧ q.entries.length = q.cap.toNat :=
  ⟨by decide, ⟨by decide, rfl⟩, queued 1 [⟨0, 1⟩], _, rfl, by decide⟩

theorem wit_PqExtract2TakesTwoSmallest : ∃ (s : State) (q : Queue), s.pq = some q ∧
    2 ≤ q.entries.length ∧ HeapOrdered q.entries :=
  ⟨queued 2 [⟨0, 0⟩, ⟨1, 4294967295⟩], _, rfl, by decide, by decide⟩

theorem wit_PqExtract2Failures : State.reset.pq = none ∧
    ∃ s q, State.pq s = some q ∧ q.entries.length < 2 :=
  ⟨rfl, queued 2 [⟨0, 1⟩], _, rfl, by decide⟩

theorem wit_EqualEntriesLeaveLastSecond : ∃ a b c d : HeapEntry, a.freq = b.freq ∧
    b.freq = c.freq ∧ c.freq.toNat < d.freq.toNat ∧ a ≠ b ∧ b ≠ c :=
  ⟨⟨0, 1⟩, ⟨1, 1⟩, ⟨2, 1⟩, ⟨3, 2⟩, rfl, rfl, by decide, by decide, by decide⟩

theorem wit_TbLeavesMakesLeaves : ∃ (s : State) (ft : FreqTable), s.ft = some ft ∧
    s.nDistinct.toNat = distinctCount ft :=
  ⟨counted, _, rfl, by decide +kernel⟩

theorem wit_TbBuildMergesToOneRoot : ∃ (s : State) (a : Arena) (q : Queue), s.arena = some a ∧
    s.pq = some q ∧ ArenaWf a ∧ QueueWf q ∧ q.entries ≠ [] ∧
    (∀ e ∈ q.entries, e.idx.toNat < a.nodes.length) ∧
    (q.entries.map fun e => e.freq.toNat).sum < Config.freqBound ∧
    a.nodes.length + max 1 (q.entries.length - 1) ≤
      (if 2 * a.cap.toNat ≤ Config.arenaDepth then 2 * a.cap.toNat else a.cap.toNat) ∧
    2 ≤ q.entries.length :=
  ⟨leaved, _, _, rfl, rfl, by decide, by decide, by decide, by decide, by decide, by decide,
    by decide⟩

theorem wit_TbBuildMergesTwoMinima : ∃ (s : State) (a : Arena) (q : Queue) (x y : HeapEntry)
    (h h' : List HeapEntry), s.arena = some a ∧ s.pq = some q ∧ q.entries.length ≤ q.cap.toNat ∧
    heapPop q.entries = some (x, h) ∧ heapPop h = some (y, h') ∧ h' ≠ [] ∧
    x.idx.toNat < a.nodes.length ∧ y.idx.toNat < a.nodes.length ∧
    x.freq.toNat + y.freq.toNat < Config.freqBound ∧ a.nodes.length = a.cap.toNat ∧
    2 * a.cap.toNat ≤ Config.arenaDepth :=
  ⟨{ leaved with pq := some ⟨3, [⟨1, 1⟩, ⟨0, 3⟩, ⟨1, 4294967294⟩]⟩ }, _, _, ⟨1, 1⟩, ⟨0, 3⟩,
    [⟨0, 3⟩, ⟨1, 4294967294⟩], [⟨1, 4294967294⟩], rfl, rfl, by decide, by decide, by decide,
    by decide, by decide, by decide, by decide, by decide, by decide⟩

theorem wit_TbBuildSumsFrequencies : ∃ (s t : State) (a a' : Arena) (q : Queue) (n : WorkNode),
    s.arena = some a ∧ s.pq = some q ∧ ArenaWf a ∧ QueueWf q ∧
    (∀ e ∈ q.entries, ∃ n, a.nodes[e.idx.toNat]? = some n ∧ n.freq = e.freq) ∧
    exec .tbBuild s = .next t ∧ t.result = .ok ∧ t.arena = some a' ∧ a.nodes.length ≤ 2 ∧
    a'.nodes[2]? = some n ∧ n.right ≠ Config.noChild := by
  obtain ⟨t, h, hr⟩ := next_of_outcome (f := fun t => (t.result, t.arena))
    (v := (.ok, some builtArena)) (o := exec .tbBuild leaved) (by decide +kernel)
  refine ⟨leaved, t, _, builtArena, _, ⟨4, 0x00, 1, 0, false⟩, rfl, rfl, by decide, by decide, ?_,
    h, (Prod.mk.inj hr).1, (Prod.mk.inj hr).2, by decide, rfl, by decide⟩
  intro e he
  simp only [List.mem_cons, List.not_mem_nil, or_false] at he
  rcases he with rfl | rfl
  · exact ⟨_, rfl, rfl⟩
  · exact ⟨_, rfl, rfl⟩

theorem wit_TbBuildSettlesOneEntry :
    (∃ (s : State) (a : Arena) (q : Queue) (e : HeapEntry) (n : WorkNode), s.arena = some a ∧
      s.pq = some q ∧ q.entries = [e] ∧ a.nodes[e.idx.toNat]? = some n ∧ a.cap.toNat ≠ 0 ∧
      n.isLeaf = true ∧ 2 * a.cap.toNat ≤ Config.arenaDepth ∧ a.nodes.length = a.cap.toNat) ∧
    ∃ (s : State) (a : Arena) (q : Queue) (e : HeapEntry) (n : WorkNode), s.arena = some a ∧
      s.pq = some q ∧ q.entries = [e] ∧ a.nodes[e.idx.toNat]? = some n ∧ a.cap.toNat ≠ 0 ∧
      n.isLeaf = false :=
  ⟨⟨{ leaved with pq := some ⟨1, [⟨0, 5⟩]⟩ }, _, _, _, _, rfl, rfl, rfl, rfl, by decide, by decide,
      by decide, by decide⟩,
    ⟨built, _, _, _, _, rfl, rfl, rfl, rfl, by decide, by decide⟩⟩

/-- An arena as full as it can be. -/
def fullArena : Arena :=
  ⟨List.replicate 512 ⟨1, 0x00, 0xFFFF, 0xFFFF, false⟩, 512⟩

/-- Three entries on the leaves of V-TB-1: after one merge the second is out of range, too large, or
has no place, by the third entry and the arena. -/
def threeEntries (a : Arena) (e : HeapEntry) : State :=
  { leaved with arena := some a, pq := some ⟨3, [⟨1, 1⟩, ⟨0, 3⟩, e]⟩ }

/-- What the clauses of the statement ask of a merge in the state after `k` merges. -/
def mergeInput (k : Nat) (s : State) (p : Arena → HeapEntry → HeapEntry → Bool) : Bool :=
  match mergeTimes k s with
  | none => false
  | some t =>
    match t.arena, t.pq with
    | some a, some q =>
      match heapPop q.entries with
      | none => false
      | some (x, h) =>
        match heapPop h with
        | none => false
        | some (y, _) => p a x y
    | _, _ => false

theorem wit_TbBuildFailures :
    arenaCap State.reset = 0 ∧
    (arenaCap built ≠ 0 ∧ pqSize { built with pq := some ⟨4, []⟩ } = 0) ∧
    (arenaCap leaved ≠ 0 ∧ mergeInput 1 (threeEntries ⟨leaves, 2⟩ ⟨9, 5⟩) (fun a x y =>
      decide (a.nodes.length ≤ x.idx.toNat) || decide (a.nodes.length ≤ y.idx.toNat)) = true) ∧
    mergeInput 1 (threeEntries ⟨leaves, 2⟩ ⟨0, 4294967292⟩) (fun a x y =>
      decide (x.idx.toNat < a.nodes.length) && decide (y.idx.toNat < a.nodes.length) &&
        decide (4294967296 ≤ x.freq.toNat + y.freq.toNat)) = true ∧
    mergeInput 1 (threeEntries ⟨fullArena.nodes.take 511, 512⟩ ⟨0, 4⟩) (fun a x y =>
      decide (x.idx.toNat < a.nodes.length) && decide (y.idx.toNat < a.nodes.length) &&
        decide (x.freq.toNat + y.freq.toNat < 4294967296) &&
        decide (a.nodes.length = a.cap.toNat) && decide (512 < 2 * a.cap.toNat)) = true ∧
    (∃ (s : State) (a : Arena) (e : HeapEntry), mergeTimes 0 s = some s ∧ s.arena = some a ∧
      s.pq = some ⟨1, [e]⟩ ∧ arenaCap s ≠ 0 ∧ a.nodes.length ≤ e.idx.toNat) ∧
    ∃ (s : State) (a : Arena) (e : HeapEntry) (n : WorkNode), mergeTimes 0 s = some s ∧
      s.arena = some a ∧ s.pq = some ⟨1, [e]⟩ ∧ arenaCap s ≠ 0 ∧
      a.nodes[e.idx.toNat]? = some n ∧ n.isLeaf = true ∧ a.nodes.length = a.cap.toNat ∧
      512 < 2 * a.cap.toNat :=
  ⟨by decide, by decide, by decide +kernel, by decide +kernel, by decide +kernel,
    ⟨{ built with pq := some ⟨1, [⟨3, 1⟩]⟩ }, _, ⟨3, 1⟩, rfl, rfl, rfl, by decide, by decide⟩,
    ⟨{ State.reset with arena := some fullArena, pq := some ⟨1, [⟨0, 1⟩]⟩ }, fullArena, ⟨0, 1⟩,
      ⟨1, 0x00, 0xFFFF, 0xFFFF, false⟩, rfl, rfl, rfl, by decide, by decide +kernel, by decide,
      by decide +kernel, by decide⟩⟩

theorem wit_CgGenRecordsLeafPaths : ∃ (s : State) (a : Arena), s.arena = some a ∧
    s.rootValid = true ∧ ArenaWf a ∧ s.root.toNat < a.nodes.length ∧
    (heights a.nodes).getD s.root.toNat 0 ≤ 255 ∧
    leafSym (finalsOf a) s.root.toNat [false] = some 0x62 :=
  ⟨built, _, rfl, rfl, by decide, by decide, by decide, by decide⟩

/-- A leaf below 256 nodes, each with the one before it as both children. -/
def chainArena : Arena :=
  ⟨⟨1, 0x41, 0xFFFF, 0xFFFF, false⟩ :: (List.range 256).map fun i =>
    ⟨1, 0x00, BitVec.ofNat 16 i, BitVec.ofNat 16 i, false⟩, 512⟩

theorem wit_CgGenFailsOnLongPath :
    (∃ (s : State) (a : Arena) (p : List Bool), s.arena = some a ∧ s.rootValid = true ∧
      ArenaWf a ∧ s.root.toNat < a.nodes.length ∧ p.length = 256 ∧
      FirstReached (finalsOf a) s.root.toNat p) ∧
    ∃ (s : State) (a : Arena), s.arena = some a ∧ s.rootValid = true ∧ ArenaWf a ∧
      s.root.toNat < a.nodes.length ∧
      ¬ ∃ p : List Bool, p.length = 256 ∧ FirstReached (finalsOf a) s.root.toNat p := by
  refine ⟨⟨{ State.reset with arena := some chainArena, rootValid := true, root := 256 },
    chainArena, List.replicate 256 false, rfl, rfl, by decide +kernel, by decide +kernel,
    List.length_replicate, by decide +kernel, ?_⟩,
    ⟨built, builtArena, rfl, rfl, by decide, by decide, ?_⟩⟩
  · intro before after rest other h
    have hm : true ∈ List.replicate 256 false := by
      rw [h]
      simp
    exact absurd (List.eq_of_mem_replicate hm) (by decide)
  · rintro ⟨p, hp, hr, -⟩
    match p with
    | [] => simp at hp
    | [_] => simp at hp
    | b :: c :: rest => exact hr (by cases b <;> cases c <;> rfl)

theorem wit_BpPackAppendsPayload : ∃ (s : State) (code : CodeTable), s.code = some code ∧
    SourceServes s ∧ (∀ b ∈ s.src, tableGet code b ≠ []) ∧
    SinkTakes (packed (s.src.flatMap (tableGet code))).length s :=
  ⟨{ coded with snkFailAt := some 1 }, _, rfl, by decide, by decide +kernel, by decide +kernel⟩

theorem wit_BpPackRejectsUncodedByte : ∃ (s : State) (code : CodeTable) (good : List Byte)
    (b : Byte) (more : List Byte), s.code = some code ∧ s.srcBound = true ∧
    allows s.srcFailAt (good.length + 1) = true ∧ s.src = good ++ b :: more ∧
    (∀ c ∈ good, tableGet code c ≠ []) ∧ tableGet code b = [] ∧ s.snkBound = true ∧
    s.snkFailAt = none :=
  ⟨{ coded with src := [0x61, 0x62, 0x63, 0x61], srcFailAt := some 3 }, _, [0x61, 0x62], 0x63,
    [0x61], rfl, rfl, by decide, rfl, by decide +kernel, by decide +kernel, rfl, rfl⟩

theorem wit_BpPackStreamFailures :
    (∃ (s : State) (code : CodeTable), s.code = some code ∧ s.srcBound = false) ∧
    (∃ (s : State) (code : CodeTable), s.code = some code ∧ s.srcBound = true ∧
      s.srcFailAt = some 4 ∧ 4 ≤ s.src.length ∧
      (∀ b ∈ s.src.take 4, tableGet code b ≠ []) ∧
      RoomFor (((s.src.take 4).flatMap (tableGet code)).length / 8) s ∧
      sinkRoom s = some 0) ∧
    (∃ (s : State) (code : CodeTable), s.code = some code ∧ s.srcBound = true ∧
      sinkRoom s = some 0 ∧ 8 ≤ s.src.length ∧ (∀ b ∈ s.src.take 8, tableGet code b ≠ []) ∧
      ((s.src.take (8 - 1)).flatMap (tableGet code)).length < 8 * (0 + 1) ∧
      8 * (0 + 1) ≤ ((s.src.take 8).flatMap (tableGet code)).length ∧
      allows s.srcFailAt 8 = true) ∧
    ∃ (s : State) (code : CodeTable), s.code = some code ∧ s.srcBound = true ∧
      sinkRoom s = some 0 ∧ (∀ b ∈ s.src.take 4, tableGet code b ≠ []) ∧
      ((s.src.take (4 - 1)).flatMap (tableGet code)).length < 8 * (0 + 1) ∧ 4 = s.src.length ∧
      8 * 0 < (s.src.flatMap (tableGet code)).length ∧
      (s.src.flatMap (tableGet code)).length < 8 * (0 + 1) ∧ allows s.srcFailAt (4 + 1) = true :=
  ⟨⟨{ coded with srcBound := false }, _, rfl, rfl⟩,
    ⟨{ coded with srcFailAt := some 4, snkBound := false }, _, rfl, rfl, rfl, by decide,
      by decide +kernel, by decide +kernel, rfl⟩,
    ⟨{ coded with src := aaab ++ aaab ++ aaab, srcFailAt := some 8, snkFailAt := some 0 }, _, rfl,
      rfl, rfl, by decide, by decide +kernel, by decide +kernel, by decide +kernel, by decide⟩,
    ⟨{ coded with srcFailAt := some 5, snkFailAt := some 0 }, _, rfl, rfl, rfl,
      by decide +kernel, by decide +kernel, rfl, by decide +kernel, by decide +kernel,
      by decide⟩⟩

theorem wit_BuUnpackWalksPaths : ∃ (s : State) (nodes : List FinalNode) (paths : List (List Bool))
    (syms : List Byte) (pad : List Bool), s.ftree = some nodes ∧ s.treeSize.toNat = nodes.length ∧
    paths.map (leafSym nodes (nodes.length - 1)) = syms.map some ∧
    syms.length = s.totalChars.toNat ∧
    bitString (s.src.drop s.srcPos) = paths.flatten ++ pad ∧ s.srcBound = true ∧
    allows s.srcFailAt (s.srcPos + (paths.flatten.length + 7) / 8) = true ∧
    SinkTakes syms.length s :=
  ⟨{ loaded [0xEF] with srcFailAt := some 22, snkFailAt := some 4 }, aaabTree,
    [[true], [true], [true], [false]], aaab, [true, true, true, true], rfl, rfl, by decide, rfl,
    by decide, rfl, by decide, by decide⟩

/-- V-SER-10 (nothing left), V-BU-9 (the source ends after symbols), V-BU-6 (a missing child after
symbols). -/
theorem wit_BuUnpackFailures :
    (∃ (s : State) (nodes : List FinalNode), s.ftree = some nodes ∧ s.srcBound = true ∧
      0 < s.totalChars.toNat ∧ s.src.length ≤ s.srcPos ∧
      allows s.srcFailAt (s.srcPos + 1) = true) ∧
    (∃ (s : State) (nodes : List FinalNode) (paths : List (List Bool)) (syms : List Byte)
      (rest : List Bool) (n : FinalNode), s.ftree = some nodes ∧ s.srcBound = true ∧
      s.treeSize.toNat = nodes.length ∧
      paths.map (leafSym nodes (nodes.length - 1)) = syms.map some ∧
      syms.length < s.totalChars.toNat ∧ RoomFor syms.length s ∧
      bitString (s.src.drop s.srcPos) = paths.flatten ++ rest ∧
      midway nodes (nodes.length - 1) rest = some n ∧ s.srcPos ≤ s.src.length ∧
      allows s.srcFailAt (s.src.length + 1) = true ∧ syms.length = 8) ∧
    ∃ (s : State) (nodes : List FinalNode) (paths : List (List Bool)) (syms : List Byte)
      (steps more : List Bool) (bit : Bool) (n : FinalNode), s.ftree = some nodes ∧
      s.srcBound = true ∧ s.treeSize.toNat = nodes.length ∧
      paths.map (leafSym nodes (nodes.length - 1)) = syms.map some ∧
      syms.length < s.totalChars.toNat ∧ RoomFor syms.length s ∧
      bitString (s.src.drop s.srcPos) = paths.flatten ++ steps ++ bit :: more ∧
      midway nodes (nodes.length - 1) steps = some n ∧
      (if bit then n.right else n.left) = Config.noChild ∧
      allows s.srcFailAt (s.srcPos + (paths.flatten.length + steps.length + 8) / 8) = true ∧
      syms.length = 3 :=
  ⟨⟨loaded [], aaabTree, rfl, rfl, by decide, by decide, rfl⟩,
    ⟨{ loaded [0xE0] with totalChars := 16, snkFailAt := some 8, srcFailAt := some 23 }, aaabTree,
      [[true], [true], [true], [false], [false], [false], [false], [false]],
      [0x61, 0x61, 0x61, 0x62, 0x62, 0x62, 0x62, 0x62], [], ⟨0x00, 1, 0⟩, rfl, rfl, rfl,
      by decide, by decide, by decide, by decide, by decide, by decide, by decide, rfl⟩,
    ⟨{ fed (zzzzHead ++ [0x10]) with
        ftree := some zzzzTree, totalChars := 4, treeSize := 2, srcPos := 16,
        srcFailAt := some 17 },
      zzzzTree, [[false], [false], [false]], [0x7A, 0x7A, 0x7A], [],
      [false, false, false, false], true, ⟨0x00, 0, 0xFFFF⟩, rfl, rfl, rfl, by decide, by decide,
      by decide, by decide, by decide, by decide, by decide, rfl⟩⟩

theorem wit_BuUnpackStreamFailures :
    (∃ (s : State) (nodes : List FinalNode), s.ftree = some nodes ∧ 0 < s.totalChars.toNat ∧
      s.srcBound = false) ∧
    (∃ (s : State) (nodes : List FinalNode), s.ftree = some nodes ∧ 0 < s.totalChars.toNat ∧
      allows s.srcFailAt (s.srcPos + 1) = false) ∧
    (∃ (s : State) (nodes : List FinalNode) (f : Nat) (paths : List (List Bool))
      (syms : List Byte) (rest : List Bool) (n : FinalNode), s.ftree = some nodes ∧
      s.srcBound = true ∧ s.srcFailAt = some f ∧ s.srcPos ≤ f ∧ f ≤ s.src.length ∧
      s.treeSize.toNat = nodes.length ∧
      paths.map (leafSym nodes (nodes.length - 1)) = syms.map some ∧
      syms.length < s.totalChars.toNat ∧ RoomFor syms.length s ∧
      bitString ((s.src.drop s.srcPos).take (f - s.srcPos)) = paths.flatten ++ rest ∧
      midway nodes (nodes.length - 1) rest = some n ∧ syms.length = 8) ∧
    ∃ (s : State) (nodes : List FinalNode) (g : Nat) (paths : List (List Bool))
      (syms : List Byte) (pad : List Bool), s.ftree = some nodes ∧ s.srcBound = true ∧
      s.treeSize.toNat = nodes.length ∧
      paths.map (leafSym nodes (nodes.length - 1)) = syms.map some ∧ sinkRoom s = some g ∧
      syms.length = g + 1 ∧ g < s.totalChars.toNat ∧
      bitString (s.src.drop s.srcPos) = paths.flatten ++ pad ∧
      allows s.srcFailAt (s.srcPos + (paths.flatten.length + 7) / 8) = true :=
  ⟨⟨{ loaded [] with srcBound := false }, aaabTree, rfl, by decide, rfl⟩,
    ⟨{ loaded [0xE0] with srcFailAt := some 21 }, aaabTree, rfl, by decide, by decide⟩,
    ⟨{ loaded [0xE0, 0xFF] with totalChars := 9, srcFailAt := some 22 }, aaabTree, 22,
      [[true], [true], [true], [false], [false], [false], [false], [false]],
      [0x61, 0x61, 0x61, 0x62, 0x62, 0x62, 0x62, 0x62], [], ⟨0x00, 1, 0⟩, rfl, rfl, rfl,
      by decide, by decide, rfl, by decide, by decide, by decide, by decide, by decide, rfl⟩,
    ⟨{ loaded [0xE0] with srcFailAt := some 22, snkFailAt := some 3 }, aaabTree, 3,
      [[true], [true], [true], [false]], aaab, [false, false, false, false], rfl, rfl, rfl,
      by decide, rfl, rfl, by decide, by decide, by decide⟩⟩

theorem wit_BuUnpackMeetsNoFreeValue : ∃ (s t : State) (nodes : List FinalNode),
    s.ftree = some nodes ∧ FtreeWf nodes ∧ s.treeSize.toNat = nodes.length ∧
    exec .buUnpack s = .next t ∧ t.snk = aaab := by
  obtain ⟨t, h, hs⟩ := next_of_outcome (f := State.snk) (v := aaab)
    (o := exec .buUnpack (loaded [0xE0])) (by decide +kernel)
  exact ⟨loaded [0xE0], t, aaabTree, rfl, by decide, rfl, h, hs⟩

theorem wit_SerWriteWritesHeaderAndTree : ∃ (s : State) (a : Arena), s.arena = some a ∧
    s.ft ≠ none ∧ s.rootValid = true ∧ s.root.toNat + 1 = a.nodes.length ∧
    SinkTakes (fileHead s.totalChars.toNat (finalsOf a)).length s :=
  ⟨{ built with snkFailAt := some 21 }, _, rfl, by simp [built, leaved, counted], rfl, by decide,
    by decide⟩

theorem wit_SerWriteSinkFailure : ∃ (s : State) (a : Arena), s.arena = some a ∧
    s.ft ≠ none ∧ s.rootValid = true ∧ s.root.toNat + 1 = a.nodes.length ∧
    ¬ SinkTakes (fileHead s.totalChars.toNat (finalsOf a)).length s :=
  ⟨{ built with snkFailAt := some 20 }, _, rfl, by simp [built, leaved, counted], rfl, by decide,
    by decide⟩

theorem wit_SerReadLoadsTree : ∃ (s : State) (n : Nat) (nodes : List FinalNode) (more : List Byte),
    s.srcBound = true ∧ s.src = fileHead n nodes ++ more ∧ 2 ≤ n ∧ n < 4294967296 ∧
    FtreeWf nodes ∧ allows s.srcFailAt (6 + 5 * nodes.length) = true :=
  ⟨{ fed (zzzzHead ++ [0x00]) with srcFailAt := some 16 }, 4, zzzzTree, [0x00], rfl, by decide,
    by decide, by decide, by decide, by decide⟩

theorem wit_SerReadChecksHeader :
    (∃ n t more, [0x01, 0x00, 0x00, 0x00, 0x02, 0x00] =
      littleEndian 4 n ++ littleEndian 2 t ++ more ∧ n < 4294967296 ∧ t < 65536 ∧ n < 2) ∧
    (∃ n t more, (fed [0x04, 0x00, 0x00, 0x00, 0x01, 0x00]).src =
      littleEndian 4 n ++ littleEndian 2 t ++ more ∧ n < 4294967296 ∧ t < 65536 ∧ t < 2) ∧
    (∃ n t more, (fed [0x04, 0x00, 0x00, 0x00, 0x00, 0x02]).src =
      littleEndian 4 n ++ littleEndian 2 t ++ more ∧ n < 4294967296 ∧ t < 65536 ∧ 511 < t ∧
      allows (fed []).srcFailAt 6 = true) ∧
    ((fed [0x04, 0x00, 0x00, 0x00, 0x03]).src.length < 6 ∧
      allows (fed []).srcFailAt 6 = true) :=
  ⟨⟨1, 2, [], by decide⟩, ⟨4, 1, [], by decide⟩, ⟨4, 512, [], by decide⟩, by decide⟩

theorem wit_SerReadChecksChildren :
    (∃ (s : State) (nodes : List FinalNode) (bad : FinalNode), s.srcBound = true ∧
      s.src = fileHead 4 nodes ++ [] ∧ 2 ≤ nodes.length ∧ nodes.length ≤ 511 ∧
      allows s.srcFailAt (6 + 5 * nodes.length) = true ∧ bad ∈ nodes ∧
      ¬ (bad.left.toInt = -1 ∨ (0 ≤ bad.left.toInt ∧ bad.left.toInt < nodes.length))) ∧
    ∃ (s : State) (nodes : List FinalNode) (bad : FinalNode), s.srcBound = true ∧
      s.src = fileHead 4 nodes ++ [] ∧ bad ∈ nodes ∧
      ¬ (bad.right.toInt = -1 ∨ (0 ≤ bad.right.toInt ∧ bad.right.toInt < nodes.length)) :=
  ⟨⟨fed (fileHead 4 [⟨0x61, 0xFFFF, 0xFFFF⟩, ⟨0x00, 0xFFFE, 0⟩]), _, ⟨0x00, 0xFFFE, 0⟩, rfl,
      (List.append_nil _).symm, by decide, by decide, rfl, by decide, by decide⟩,
    ⟨fed (fileHead 4 [⟨0x61, 0xFFFF, 0xFFFF⟩, ⟨0x00, 0, 2⟩]), _, ⟨0x00, 0, 2⟩, rfl,
      (List.append_nil _).symm, by decide, by decide⟩⟩

theorem wit_SerReadTruncatedTree :
    (∃ (s : State) (nodes : List FinalNode), s.srcBound = true ∧
      s.src = (fileHead 4 nodes).take 9 ∧ 9 < 6 + 5 * nodes.length ∧ 2 ≤ nodes.length ∧
      nodes.length ≤ 511 ∧ allows s.srcFailAt (9 + 1) = true) ∧
    State.reset.srcBound = false ∧
    (∃ s : State, s.srcBound = true ∧ s.srcFailAt = some 5 ∧ 5 ≤ s.src.length) ∧
    ∃ (s : State) (more : List Byte), s.srcBound = true ∧ s.srcFailAt = some 6 ∧
      6 < 6 + 5 * 3 ∧ 6 ≤ s.src.length ∧
      s.src = littleEndian 4 4 ++ littleEndian 2 3 ++ more :=
  ⟨⟨{ fed (aaabHead.take 9) with srcFailAt := some 10 }, aaabTree, rfl, by decide, by decide,
      by decide, by decide, by decide⟩, rfl,
    ⟨{ fed (aaabHead.take 5) with srcFailAt := some 5 }, rfl, rfl, by decide⟩,
    ⟨{ fed aaabHead with srcFailAt := some 6 }, aaabHead.drop 6, rfl, rfl, by decide, by decide,
      by decide⟩⟩

theorem wit_CompressWritesFile : SourceServes (fed [0x61]) ∧ 1 ≤ (fed [0x61]).src.length ∧
    (fed [0x61]).src.length ≤ Config.maxInput ∧ (fed [0x61]).snkBound = true ∧
    (∀ n, allows (fed [0x61]).snkFailAt n = true) ∧ allows (some 17) 17 = true :=
  ⟨by decide, by decide, by decide, rfl, fun _ => rfl, by decide⟩

theorem wit_DecompressWritesSymbols : ∃ (s : State) (nodes : List FinalNode) (payload : List Byte)
    (paths : List (List Bool)) (syms : List Byte) (pad : List Bool), s.srcBound = true ∧
    s.src = fileHead syms.length nodes ++ payload ∧ 2 ≤ syms.length ∧ syms.length < 4294967296 ∧
    FtreeWf nodes ∧ paths.map (leafSym nodes (nodes.length - 1)) = syms.map some ∧
    bitString payload = paths.flatten ++ pad ∧
    allows s.srcFailAt (6 + 5 * nodes.length + (paths.flatten.length + 7) / 8) = true ∧
    s.snkBound = true ∧ allows s.snkFailAt syms.length = true :=
  ⟨{ fed (aaabHead ++ [0xE0]) with srcFailAt := some 22, snkFailAt := some 4 }, aaabTree, [0xE0],
    [[true], [true], [true], [false]], aaab, [false, false, false, false], rfl, by decide,
    by decide, by decide, by decide, by decide, by decide, by decide, rfl, by decide⟩

theorem wit_DecompressUndoesCompress : SourceServes (fed aaab) ∧ 2 ≤ (fed aaab).src.length ∧
    (fed aaab).src.length ≤ Config.maxInput ∧ (fed aaab).snkBound = true ∧
    (fed aaab).snkFailAt = none ∧
    ∃ t u : State, exec .compress (fed aaab) = .next t ∧ u.srcBound = true ∧ u.src = t.snk ∧
      allows u.srcFailAt t.snk.length = true ∧ u.snkBound = true ∧
      allows u.snkFailAt (fed aaab).src.length = true := by
  obtain ⟨t, h, -⟩ := next_of_outcome test_compress_aaab
  exact ⟨by decide, by decide, by decide, rfl, rfl, t, fed t.snk, h, rfl, rfl, rfl, rfl, rfl⟩

theorem wit_OneByteFileIsRejected : SourceServes (fed [0x61]) ∧ (fed [0x61]).src = [0x61] ∧
    (fed [0x61]).snkBound = true ∧ (fed [0x61]).snkFailAt = none ∧
    ∃ t u : State, exec .compress (fed [0x61]) = .next t ∧ u.srcBound = true ∧ u.src = t.snk ∧
      allows u.srcFailAt 6 = true := by
  obtain ⟨t, h, -⟩ := next_of_outcome test_compress_one_byte
  exact ⟨by decide, rfl, rfl, rfl, t, fed t.snk, h, rfl, rfl, rfl⟩

theorem wit_SingleSymbolFile : SourceServes (fed (List.replicate 9 0x7A)) ∧ 1 ≤ 9 ∧
    9 ≤ Config.maxInput ∧ (fed (List.replicate 9 0x7A)).snkBound = true ∧
    (fed (List.replicate 9 0x7A)).snkFailAt = none := by decide

theorem wit_CompressForgetsThePast : ∃ s u t : State, u ≠ s ∧ u.srcBound = s.srcBound ∧
    u.src = s.src ∧ u.srcFailAt = s.srcFailAt ∧ u.snkBound = s.snkBound ∧
    u.snkFailAt = s.snkFailAt ∧ exec .compress s = .next t ∧ t.snk = aaabHead ++ [0xE0] ∧
    s.snkBound = true ∧ t.result = .ok := by
  obtain ⟨t, h, hs⟩ := next_of_outcome test_compress_aaab
  exact ⟨fed aaab, built, t, fun h => Bool.noConfusion (congrArg State.rootValid h), rfl, rfl, rfl,
    rfl, rfl,
    h, (Prod.mk.inj hs).1, rfl, congrArg (fun x => x.2.2.2) hs⟩

theorem wit_CompressIsItsStages : (fed aaab).snk = [] := rfl

theorem wit_DecompressIsItsStages : (fed (aaabHead ++ [0xE0])).snk = [] := rfl

end Sys2Proof.Tests
end

section
/-! PROOFS. How a piece of pseudocode ends, what a command and a step can answer, and the register
file and reset (O7, O8, O9). -/

namespace Sys2Proof.Machine

/-- What is claimed of however `m` ends: `P` where it goes on, `E` where it raises. -/
def Res.Meets {α : Type} (m : Res α) (P : α → State → Prop) (E : ErrorKind → State → Prop) : Prop :=
  match m with
  | .ok a s => P a s
  | .raised k s => E k s
  | .stuck _ => True

/-- The state in which `m` ends, whether it goes on or raises, meets `R`. -/
def Res.Leaves {α : Type} (m : Res α) (R : State → Prop) : Prop :=
  m.Meets (fun _ => R) (fun _ => R)

section Results
variable {α β : Type} {m : Res α} {f : α → State → Res β} {g : State → Res Unit}
  {P P' : α → State → Prop} {Q : β → State → Prop} {E E' : ErrorKind → State → Prop}
  {R R' : State → Prop} {s t : State}

@[simp] theorem Res.meets_ok {a : α} : (Res.ok a s).Meets P E ↔ P a s := Iff.rfl

@[simp] theorem Res.meets_raised {k : ErrorKind} : (Res.raised k s).Meets P E ↔ E k s := Iff.rfl

@[simp] theorem Res.meets_stuck {r : Fault} : (Res.stuck r : Res α).Meets P E := trivial

@[simp] theorem Res.leaves_ok {a : α} : (Res.ok a s).Leaves R ↔ R s := Iff.rfl

@[simp] theorem Res.leaves_raised {k : ErrorKind} : (Res.raised k s : Res α).Leaves R ↔ R s :=
  Iff.rfl

@[simp] theorem Res.leaves_stuck {r : Fault} : (Res.stuck r : Res α).Leaves R := trivial

/-- The rule of consequence. -/
theorem Res.Meets.imp (hm : m.Meets P E) (hP : ∀ a u, P a u → P' a u)
    (hE : ∀ k u, E k u → E' k u) : m.Meets P' E' := by
  cases m with
  | ok a u => exact hP a u hm
  | raised k u => exact hE k u hm
  | stuck r => trivial

/-- The rule of sequencing. -/
theorem Res.Meets.bind (hm : m.Meets P E) (hf : ∀ a u, P a u → (f a u).Meets Q E) :
    (m.bind f).Meets Q E := by
  cases m with
  | ok a u => exact hf a u hm
  | raised k u => exact hm
  | stuck r => trivial

theorem Res.Meets.andThen {m : Res Unit} {P Q : Unit → State → Prop} (hm : m.Meets P E)
    (hg : ∀ u, P () u → (g u).Meets Q E) : (m.andThen g).Meets Q E :=
  Res.Meets.bind hm fun _ => hg

theorem Res.Leaves.imp (hm : m.Leaves R) (h : ∀ u, R u → R' u) : m.Leaves R' :=
  Res.Meets.imp hm (fun _ => h) (fun _ => h)

theorem Res.leaves_of_forall (m : Res α) (h : ∀ u, R u) : m.Leaves R := by
  cases m with
  | ok a u => exact h u
  | raised k u => exact h u
  | stuck r => trivial

theorem Res.Leaves.bind (hm : m.Leaves R) (hf : ∀ a u, R u → (f a u).Leaves R) :
    (m.bind f).Leaves R :=
  Res.Meets.bind hm hf

theorem Res.Leaves.andThen {m : Res Unit} (hm : m.Leaves R) (hg : ∀ u, R u → (g u).Leaves R) :
    (m.andThen g).Leaves R :=
  Res.Meets.bind hm fun _ => hg

end Results

/-- What each command does but for its last line: the piece of pseudocode that `exec` finishes. -/
def commandBody : Instr → State → Res Unit
  | .compress => compressBody
  | .decompress => decompressBody
  | .ftCount => ftCountBody
  | .pqInit cap => pqInitBody cap
  | .pqInsert idx freq => pqInsertBody idx freq
  | .pqExtract2 => pqExtract2Body
  | .tbLeaves => tbLeavesBody
  | .tbBuild => tbBuildBody
  | .cgGen => cgGenBody
  | .bpPack => bpPackBody
  | .buUnpack => buUnpackBody
  | .serWrite => serWriteBody
  | .serRead => serReadBody
  | .release => releaseBody

/-- Every command ends in completion or in the failure entry of its body. -/
theorem exec_eq_finish (i : Instr) (s : State) : exec i s = finish (commandBody i s) := by
  cases i <;> rfl

/-- A command that answers has completed where its body went on, and performed the failure entry
where its body raised. -/
theorem exec_of_meets {i : Instr} {s t : State} {P : Unit → State → Prop}
    {E : ErrorKind → State → Prop} (h : exec i s = .next t) (hb : (commandBody i s).Meets P E) :
    (∃ u, P () u ∧ t = complete u) ∨ ∃ k u, E k u ∧ t = failureEntry k u := by
  rw [exec_eq_finish] at h
  rcases finish_eq_next.1 h with ⟨u, hu, rfl⟩ | ⟨k, u, hu, rfl⟩
  · exact .inl ⟨u, by simpa [hu] using hb, rfl⟩
  · exact .inr ⟨k, u, by simpa [hu] using hb, rfl⟩

/-- What the body leaves, and neither end of a command undoes, holds after the command. -/
theorem exec_of_leaves {i : Instr} {s t : State} {R : State → Prop} (h : exec i s = .next t)
    (hb : (commandBody i s).Leaves R) (hc : ∀ u, R u → R (complete u))
    (hf : ∀ k u, R u → R (failureEntry k u)) : R t := by
  rcases exec_of_meets h hb with ⟨u, hu, rfl⟩ | ⟨k, u, hu, rfl⟩
  · exact hc u hu
  · exact hf k u hu

/-- What a step can do: wait, or take the host's next action. -/
theorem step_eq_next {s t : State} (h : step s = .next t) :
    t = s ∨ ∃ a rest, s.hostq = a :: rest ∧
      act a { s with hostq := rest, freeCtr := s.freeCtr + 1 } = .next t := by
  cases hq : s.hostq with
  | nil => exact .inl (by simpa [step, popAction, hq, wait, eq_comm] using h)
  | cons a rest => exact .inr ⟨a, rest, rfl, by simpa [step, popAction_cons hq] using h⟩

/-- The answer to a command word: the command's, or the failure entry of the decoder's reason; then
the result code is handed back. -/
theorem issueWord_eq_next {w : CmdWord} {s t : State} (h : issueWord w s = .next t) :
    ∃ u, t = answer (.result u.result) u ∧
      ((∃ i, decode w = .ok i ∧ exec i s = .next u) ∨
        ∃ k, decode w = .reject k ∧ u = failureEntry k s) := by
  unfold issueWord at h
  split at h
  · rename_i i hd
    cases he : exec i s with
    | next u =>
      rw [he] at h
      cases h
      exact ⟨u, rfl, .inl ⟨i, hd, he⟩⟩
    | fault f => simp [he, returnResult] at h
    | refused r => simp [he, returnResult] at h
  · rename_i k hd
    cases h
    exact ⟨_, rfl, .inr ⟨k, hd, rfl⟩⟩

/-- 30_encoding.md R93: the decoder rejects for two reasons. -/
theorem decode_reject {w : CmdWord} {k : ErrorKind} (h : decode w = .reject k) :
    k = .unknownOption ∨ k = .invalidParameter := by
  unfold decode decodeFields at h
  split at h
  · exact .inl (by simpa [eq_comm] using h)
  · split at h
    · exact .inr (by simpa [eq_comm] using h)
    · split at h
      · exact .inr (by simpa [eq_comm] using h)
      · split at h
        · exact .inr (by simpa [eq_comm] using h)
        · cases h

/-! Registers and reset. -/

/-- 10_state.md R46: the bits of `STATUS`. -/
theorem statusWord_getLsbD (s : State) (i : Nat) :
    (statusWord s).getLsbD i =
      if i < 8 then s.result.code.getLsbD i
      else if i = 8 then s.done
      else if i = 16 then ftValid s
      else if i = 17 then arenaValid s
      else if i = 18 then pqInit s
      else if i = 19 then s.rootValid
      else if i = 20 then codeValid s
      else if i = 21 then ftreeValid s
      else false := by
  rcases Nat.lt_or_ge i 32 with h | h
  · change (0#10 ++ BitVec.ofBool (ftreeValid s) ++ BitVec.ofBool (codeValid s)
      ++ BitVec.ofBool s.rootValid ++ BitVec.ofBool (pqInit s) ++ BitVec.ofBool (arenaValid s)
      ++ BitVec.ofBool (ftValid s) ++ 0#7 ++ BitVec.ofBool s.done ++ s.result.code).getLsbD i = _
    simp only [BitVec.getLsbD_append, BitVec.getLsbD_ofBool, BitVec.getLsbD_zero]
    interval_cases i <;> simp
  · rw [BitVec.getLsbD_of_ge _ _ h]
    grind

theorem statusWord_result (s : State) : (statusWord s).extractLsb' 0 8 = s.result.code := by
  ext i hi
  simp [statusWord_getLsbD, hi]

/-- Bits of `STATUS` that no field takes read 0. -/
theorem statusWord_unused (s : State) (lo len : Nat)
    (h : (9 ≤ lo ∧ lo + len ≤ 16) ∨ 22 ≤ lo) : (statusWord s).extractLsb' lo len = 0 := by
  ext i hi
  rw [BitVec.getElem_extractLsb', statusWord_getLsbD]
  grind

theorem pqSize_eq_elim (s : State) : pqSize s = s.pq.elim 0 fun q => q.entries.length := by
  cases hq : s.pq <;> simp [pqSize, hq]

theorem pqCap_eq_elim (s : State) : pqCap s = s.pq.elim 0 fun q => q.cap.toNat := by
  cases hq : s.pq <;> simp [pqCap, hq]

theorem arenaLen_eq_elim (s : State) : arenaLen s = s.arena.elim 0 fun a => a.nodes.length := by
  cases ha : s.arena <;> simp [arenaLen, ha]

theorem arenaCap_eq_elim (s : State) : arenaCap s = s.arena.elim 0 fun a => a.cap.toNat := by
  cases ha : s.arena <;> simp [arenaCap, ha]

/-- 10_state.md R45: the numbers from 15 on name no register. -/
theorem hostReg_of_ge (s : State) (n : Nat) (h : 15 ≤ n) : hostReg s n = 0 := by
  obtain ⟨k, rfl⟩ := Nat.exists_eq_add_of_le' h
  rfl

/-- Settles O7. -/
theorem registerFileReads : Obligations.RegisterFileReads := by
  intro s
  have narrow {w : Nat} (v : BitVec w) (h : w ≤ 32) : (v.setWidth 32).toNat = v.toNat :=
    BitVec.toNat_setWidth_of_le h
  exact ⟨statusWord_result s, statusWord_getLsbD s 8, statusWord_unused s 9 7 (by decide),
    statusWord_getLsbD s 16, statusWord_getLsbD s 17, statusWord_getLsbD s 18,
    statusWord_getLsbD s 19, statusWord_getLsbD s 20, statusWord_getLsbD s 21,
    statusWord_unused s 22 10 (by decide), rfl, narrow s.treeSize (by decide),
    narrow s.nDistinct (by decide), narrow s.root (by decide),
    congrArg (BitVec.ofNat 32) (pqSize_eq_elim s), congrArg (BitVec.ofNat 32) (pqCap_eq_elim s),
    narrow s.ex0Idx (by decide), rfl, narrow s.ex1Idx (by decide), rfl,
    congrArg (BitVec.ofNat 32) (arenaLen_eq_elim s),
    congrArg (BitVec.ofNat 32) (arenaCap_eq_elim s), rfl, rfl, hostReg_of_ge s, by decide, rfl⟩

/-- 10_state.md R47: after reset every register reads 0. -/
theorem hostReg_reset (q : List HostAction) (c n : Nat) :
    hostReg { State.reset with hostq := q, freeCtr := c } n = 0 := by
  unfold hostReg
  split
  · exact (by decide : statusWord State.reset = 0)
  all_goals rfl

/-- Settles O8: the step is one reset action, and every register of the reset block reads 0. -/
theorem resetLeavesNothing : Obligations.ResetLeavesNothing := by
  intro s rest hq
  refine ⟨{ State.reset with hostq := rest, freeCtr := s.freeCtr + 1 }, ?_, rfl, rfl, rfl, rfl, rfl,
    rfl, rfl, rfl, rfl, rfl, ⟨rfl, rfl, rfl, rfl, rfl, rfl⟩, rfl, rfl, rfl, rfl, rfl, rfl,
    hostReg_reset _ _⟩
  rw [step, popAction_cons hq]
  rfl

/-- Settles O9: no structure is held, and the streams are empty. -/
theorem resetMeetsInvariant : Obligations.ResetMeetsInvariant where
  result_before_done _ := rfl
  result_known := by decide
  ft_wf := by rintro _ ⟨⟩
  arena_wf := by rintro _ ⟨⟩
  queue_wf := by rintro _ ⟨⟩
  root_wf := by rintro ⟨⟩
  code_wf := by rintro _ ⟨⟩
  ftree_wf := by rintro _ ⟨⟩
  src_pos_le := le_refl _
  snk_unbound _ := rfl
  snk_fits := rfl

end Sys2Proof.Machine
end

section
/-! PROOFS. What each command's body can write (10_state.md R23, R24; 20_memory.md R68), and with it
the extraction and information registers (O15, O16). -/

namespace Sys2Proof.Machine

theorem ftCountBody_writes (s : State) : (ftCountBody s).Leaves fun t =>
    ∃ p n d ft, t = { s with srcPos := p, totalChars := n, nDistinct := d, ft := ft } := by
  unfold ftCountBody
  rcases countLoop_cases (s.src.length + 1) (Vector.replicate 256 0) 0 (srcRewind s)
    (by simp) with ⟨ft, n, p, -, h⟩ | ⟨k, p, -, h⟩
  · rw [h, Res.bind_ok]
    split
    · exact ⟨p, _, _, _, rfl⟩
    · exact ⟨p, _, _, _, rfl⟩
  · rw [h]
    exact ⟨p, _, _, _, rfl⟩

theorem heapInsert_writes (e : HeapEntry) (s : State) : (heapInsert e s).Leaves fun t =>
    ∃ q, t = { s with pq := q } := by
  rcases heapInsert_cases e s with ⟨-, h⟩ | ⟨q, -, ⟨-, h⟩ | ⟨-, h⟩⟩ <;> rw [h] <;> exact ⟨_, rfl⟩

theorem pqInitBody_writes (cap : BitVec 16) (s : State) : (pqInitBody cap s).Leaves fun t =>
    ∃ q, t = { s with pq := q } := by
  unfold pqInitBody
  split <;> exact ⟨_, rfl⟩

theorem pqInsertBody_writes (idx : BitVec 16) (freq : Word32) (s : State) :
    (pqInsertBody idx freq s).Leaves fun t => ∃ q, t = { s with pq := q } := by
  unfold pqInsertBody
  split
  · exact ⟨_, rfl⟩
  · exact heapInsert_writes _ s

theorem heapExtract2_writes (s : State) : (heapExtract2 s).Leaves fun t =>
    ∃ q, t = { s with pq := q } := by
  rcases heapExtract2_cases s with ⟨-, h⟩ | ⟨q, -, ⟨-, h⟩ | ⟨a, b, g, g', -, -, -, h⟩⟩ <;>
    rw [h] <;> exact ⟨_, rfl⟩

/-- R147: the extraction registers take the two entries removed, and nothing else but the queue
changes. -/
theorem pqExtract2Body_cases (s : State) :
    (∃ k, pqExtract2Body s = .raised k s) ∨
      ∃ q a b h h', s.pq = some q ∧ heapPop q.entries = some (a, h) ∧ heapPop h = some (b, h') ∧
        pqExtract2Body s = .ok () { s with
          pq := some { q with entries := h' },
          ex0Idx := a.idx, ex0Freq := a.freq, ex1Idx := b.idx, ex1Freq := b.freq } := by
  unfold pqExtract2Body
  rcases heapExtract2_cases s with ⟨-, h⟩ | ⟨q, hq, ⟨-, h⟩ | ⟨a, b, g, g', h₁, h₂, -, h⟩⟩
  · exact .inl ⟨_, by rw [h]; rfl⟩
  · exact .inl ⟨_, by rw [h]; rfl⟩
  · exact .inr ⟨q, a, b, g, g', hq, h₁, h₂, by rw [h]; rfl⟩

theorem insertLeaves_writes (nodes : List WorkNode) (is : List Nat) (s : State) :
    (insertLeaves nodes is s).Leaves fun t => ∃ q, t = { s with pq := q } := by
  induction is generalizing s with
  | nil => exact ⟨_, rfl⟩
  | cons i is ih =>
    unfold insertLeaves
    split
    · trivial
    · refine (heapInsert_writes _ s).andThen ?_
      rintro _ ⟨q, rfl⟩
      exact (ih _).imp fun _ ⟨q', h⟩ => ⟨q', h⟩

theorem tbLeavesBody_writes (s : State) : (tbLeavesBody s).Leaves fun t =>
    ∃ a q v c, t = { s with arena := a, pq := q, rootValid := v, code := c } := by
  unfold tbLeavesBody
  split
  · exact ⟨_, _, _, _, rfl⟩
  · refine ((insertLeaves_writes _ _ _).imp ?_).andThen ?_
    · rintro _ ⟨q, rfl⟩
      exact ⟨_, q, _, _, rfl⟩
    · rintro _ ⟨a, q, v, c, rfl⟩
      exact ⟨a, q, _, _, rfl⟩

theorem arenaAppend_writes (n : WorkNode) (s : State) : (arenaAppend n s).Leaves fun t =>
    ∃ a, t = { s with arena := a } := by
  rcases arenaAppend_cases n s with ⟨a, c, -, -, h⟩ | ⟨-, h⟩ | ⟨a, -, -, -, h⟩ <;> rw [h] <;>
    exact ⟨_, rfl⟩

theorem mergeStep_writes (s : State) : (mergeStep s).Leaves fun t =>
    ∃ a q, t = { s with arena := a, pq := q } := by
  unfold mergeStep
  refine ((heapExtract2_writes s).imp fun _ ⟨q, h⟩ => ⟨_, q, h⟩).bind ?_
  rintro p _ ⟨a, q, rfl⟩
  split
  · exact ⟨_, _, rfl⟩
  · split
    · exact ⟨_, _, rfl⟩
    · refine ((arenaAppend_writes _ _).imp ?_).andThen ?_
      · rintro _ ⟨a', rfl⟩
        exact ⟨a', q, rfl⟩
      · rintro _ ⟨a', q', rfl⟩
        exact (heapInsert_writes _ _).imp fun _ ⟨q'', h⟩ => ⟨a', q'', h⟩

theorem buildLoop_writes (n : Nat) (s : State) : (buildLoop n s).Leaves fun t =>
    ∃ a q, t = { s with arena := a, pq := q } := by
  induction n generalizing s with
  | zero => exact ⟨_, _, rfl⟩
  | succ n ih =>
    unfold buildLoop
    split
    · refine (mergeStep_writes s).andThen ?_
      rintro _ ⟨a, q, rfl⟩
      exact (ih _).imp fun _ ⟨a', q', h⟩ => ⟨a', q', h⟩
    · exact ⟨_, _, rfl⟩

theorem replaceFirst_writes (e : HeapEntry) (s : State) :
    ∃ q, replaceFirst e s = { s with pq := q } := by
  unfold replaceFirst
  split <;> exact ⟨_, rfl⟩

theorem settleRoot_writes (s : State) : (settleRoot s).Leaves fun t =>
    ∃ a q r v c, t = { s with arena := a, pq := q, root := r, rootValid := v, code := c } := by
  unfold settleRoot
  split
  · split
    · exact ⟨_, _, _, _, _, rfl⟩
    · split
      · exact ⟨_, _, _, _, _, rfl⟩
      · split
        · refine ((arenaAppend_writes _ s).imp ?_).andThen ?_
          · rintro _ ⟨a, rfl⟩
            exact ⟨a, _, _, _, _, rfl⟩
          · rintro _ ⟨a, q, r, v, c, rfl⟩
            obtain ⟨q', h⟩ := replaceFirst_writes _ _
            exact ⟨a, q', _, _, _, by rw [h]⟩
        · exact ⟨_, _, _, _, _, rfl⟩
  · exact ⟨_, _, _, _, _, rfl⟩
  · exact ⟨_, _, _, _, _, rfl⟩

theorem tbBuildBody_writes (s : State) : (tbBuildBody s).Leaves fun t =>
    ∃ a q r v c, t = { s with arena := a, pq := q, root := r, rootValid := v, code := c } := by
  unfold tbBuildBody
  split
  · exact ⟨_, _, _, _, _, rfl⟩
  · split
    · exact ⟨_, _, _, _, _, rfl⟩
    · refine ((buildLoop_writes _ s).imp ?_).andThen ?_
      · rintro _ ⟨a, q, rfl⟩
        exact ⟨a, q, _, _, _, rfl⟩
      · rintro _ ⟨a, q, r, v, c, rfl⟩
        exact (settleRoot_writes _).imp fun _ ⟨a', q', r', v', c', h⟩ => ⟨a', q', r', v', c', h⟩

theorem cgGenBody_writes (s : State) : (cgGenBody s).Leaves fun t =>
    ∃ a c, t = { s with arena := a, code := c } := by
  unfold cgGenBody
  split
  · exact ⟨_, _, rfl⟩
  · split
    · exact ⟨_, _, rfl⟩
    · split
      · exact ⟨_, _, rfl⟩
      · exact ⟨_, _, rfl⟩
      · trivial

theorem bpPackBody_writes (s : State) : (bpPackBody s).Leaves fun t =>
    ∃ p bs, t = { s with srcPos := p, snk := bs } := by
  unfold bpPackBody
  split
  · exact ⟨_, _, rfl⟩
  · rename_i code _
    rcases packLoop_cases code (s.src.length + 1) 0 0 (srcRewind s) (by simp) with
      ⟨p, pos, more, h⟩ | ⟨k, pos, more, -, h⟩
    · rw [h, Res.bind_ok, putPartial]
      split
      · rcases snkPut_cases (p.1 <<< (8 - p.2)) { srcRewind s with
          srcPos := pos, snk := (srcRewind s).snk ++ more } with ⟨-, hp⟩ | ⟨-, hp⟩ <;>
          rw [hp] <;> exact ⟨pos, _, rfl⟩
      · exact ⟨pos, _, rfl⟩
    · rw [h]
      exact ⟨pos, _, rfl⟩

theorem buUnpackBody_writes (s : State) : (buUnpackBody s).Leaves fun t =>
    ∃ p bs, t = { s with srcPos := p, snk := bs } := by
  unfold buUnpackBody
  split
  · exact ⟨_, _, rfl⟩
  · rename_i nodes _
    rcases unpackLoop_cases (ftreeNode nodes s.treeSize.toNat s.freeCtr) (s.treeSize.toNat - 1)
      s.totalChars.toNat (s.src.length + 1) (s.treeSize.toNat - 1) 0 s (by omega) with
      ⟨pos, more, h⟩ | ⟨k, pos, more, -, h⟩ <;> rw [h] <;> exact ⟨pos, _, rfl⟩

theorem serWriteBody_writes (s : State) : (serWriteBody s).Leaves fun t =>
    ∃ n bs, t = { s with treeSize := n, snk := bs } := by
  unfold serWriteBody
  split
  · exact ⟨_, _, rfl⟩
  · rename_i a _
    split
    · exact ⟨_, _, rfl⟩
    · split
      · exact ⟨_, _, rfl⟩
      · rcases snkPutAll_cases (headerAndTree s.totalChars (BitVec.ofNat 16 a.nodes.length)
            (a.nodes.map finalOf)) { s with treeSize := BitVec.ofNat 16 a.nodes.length } with
          h | ⟨more, h⟩ <;> simp only [h] <;> exact ⟨_, _, rfl⟩

theorem serReadBody_writes (s : State) : (serReadBody s).Leaves fun t =>
    ∃ p n z ft, t = { s with srcPos := p, totalChars := n, treeSize := z, ftree := ft } := by
  unfold serReadBody
  rcases getLE_cases 4 (srcRewind s) with ⟨tc, h⟩ | ⟨k, p, -, -, h⟩
  · rw [h, Res.bind_ok]
    rcases getLE_cases 2 { srcRewind s with srcPos := (srcRewind s).srcPos + 4 } with
      ⟨ts, h⟩ | ⟨k, p, -, -, h⟩
    · rw [h, Res.bind_ok]
      dsimp only
      split
      · exact ⟨_, _, _, _, rfl⟩
      · split
        · exact ⟨_, _, _, _, rfl⟩
        · refine Res.Leaves.bind (R := fun t => ∃ p n z ft, t = { s with
            srcPos := p, totalChars := n, treeSize := z, ftree := ft }) ?_ ?_
          · rcases readRecords_cases ts _ with ⟨xs, -, h⟩ | ⟨k, p, -, -, h⟩ <;> rw [h] <;>
              exact ⟨_, _, _, _, rfl⟩
          · rintro xs _ ⟨p, n, z, ft, rfl⟩
            split <;> exact ⟨p, n, z, _, rfl⟩
    · rw [h]
      exact ⟨p, _, _, _, rfl⟩
  · rw [h]
    exact ⟨p, _, _, _, rfl⟩

/-! The registers of a component command. -/

/-- The four extraction registers. -/
def exRegs (s : State) : NodeIdx × Word32 × NodeIdx × Word32 :=
  (s.ex0Idx, s.ex0Freq, s.ex1Idx, s.ex1Freq)

@[simp] theorem exRegs_complete (s : State) : exRegs (complete s) = exRegs s := rfl

@[simp] theorem exRegs_failureEntry (k : ErrorKind) (s : State) :
    exRegs (failureEntry k s) = exRegs s := by
  simp [exRegs]

@[simp] theorem exRegs_snkTruncate (s : State) : exRegs (snkTruncate s) = exRegs s := by
  simp [exRegs]

@[simp] theorem exRegs_releaseAll (s : State) : exRegs (releaseAll s) = exRegs s := rfl

/-- The column "written by" of R23: what command `i` leaves of the information registers of `s`. -/
def InfoKept (i : Instr) (s t : State) : Prop :=
  (i ∉ [.ftCount, .serRead, .compress, .decompress] → t.totalChars = s.totalChars) ∧
  (i ∉ [.serWrite, .serRead, .compress, .decompress] → t.treeSize = s.treeSize) ∧
  (i ∉ [.ftCount, .compress] → t.nDistinct = s.nDistinct) ∧
  (i ∉ [.tbBuild, .compress] → t.root = s.root)

/-- Which registers command `i`, not a composite, leaves as they were in `s`. -/
def RegistersKept (i : Instr) (s t : State) : Prop :=
  (i ≠ .pqExtract2 → exRegs t = exRegs s) ∧ InfoKept i s t

/-- A component command, and so a stage of `COMPRESS` or `DECOMPRESS`, writes no register but those
that R23 and R24 list for it. -/
theorem component_registers (i : Instr) (s : State) (hc : i ≠ .compress) (hd : i ≠ .decompress) :
    (commandBody i s).Leaves (RegistersKept i s) := by
  cases i with
  | compress => exact absurd rfl hc
  | decompress => exact absurd rfl hd
  | ftCount =>
    refine (ftCountBody_writes s).imp ?_
    rintro _ ⟨_, _, _, _, rfl⟩
    exact ⟨fun _ => rfl, by simp [InfoKept]⟩
  | pqInit cap =>
    refine (pqInitBody_writes cap s).imp ?_
    rintro _ ⟨_, rfl⟩
    exact ⟨fun _ => rfl, by simp [InfoKept]⟩
  | pqInsert idx freq =>
    refine (pqInsertBody_writes idx freq s).imp ?_
    rintro _ ⟨_, rfl⟩
    exact ⟨fun _ => rfl, by simp [InfoKept]⟩
  | pqExtract2 =>
    rcases pqExtract2Body_cases s with ⟨k, h⟩ | ⟨_, _, _, _, _, -, -, -, h⟩ <;>
      simp [commandBody, h, RegistersKept, InfoKept]
  | tbLeaves =>
    refine (tbLeavesBody_writes s).imp ?_
    rintro _ ⟨_, _, _, _, rfl⟩
    exact ⟨fun _ => rfl, by simp [InfoKept]⟩
  | tbBuild =>
    refine (tbBuildBody_writes s).imp ?_
    rintro _ ⟨_, _, _, _, _, rfl⟩
    exact ⟨fun _ => rfl, by simp [InfoKept]⟩
  | cgGen =>
    refine (cgGenBody_writes s).imp ?_
    rintro _ ⟨_, _, rfl⟩
    exact ⟨fun _ => rfl, by simp [InfoKept]⟩
  | bpPack =>
    refine (bpPackBody_writes s).imp ?_
    rintro _ ⟨_, _, rfl⟩
    exact ⟨fun _ => rfl, by simp [InfoKept]⟩
  | buUnpack =>
    refine (buUnpackBody_writes s).imp ?_
    rintro _ ⟨_, _, rfl⟩
    exact ⟨fun _ => rfl, by simp [InfoKept]⟩
  | serWrite =>
    refine (serWriteBody_writes s).imp ?_
    rintro _ ⟨_, _, rfl⟩
    exact ⟨fun _ => rfl, by simp [InfoKept]⟩
  | serRead =>
    refine (serReadBody_writes s).imp ?_
    rintro _ ⟨_, _, _, _, rfl⟩
    exact ⟨fun _ => rfl, by simp [InfoKept]⟩
  | release => exact ⟨fun _ => rfl, by simp [InfoKept]⟩

/-! The extraction registers (10_state.md R24). -/

/-- A further stage keeps what the stages before it have kept. -/
theorem stage_exRegs {m : Res Unit} {s : State} (i : Instr)
    (h : i ≠ .pqExtract2 ∧ i ≠ .compress ∧ i ≠ .decompress)
    (hm : m.Leaves fun t => exRegs t = exRegs s) :
    (m.andThen (commandBody i)).Leaves fun t => exRegs t = exRegs s :=
  hm.andThen fun u hu => (component_registers i u h.2.1 h.2.2).imp fun _ ht => (ht.1 h.1).trans hu

theorem commandBody_exRegs (i : Instr) (s : State) (hi : i ≠ .pqExtract2) :
    (commandBody i s).Leaves fun t => exRegs t = exRegs s := by
  have start (j : Instr) (h : j ≠ .pqExtract2 ∧ j ≠ .compress ∧ j ≠ .decompress) :
      (commandBody j (snkTruncate (releaseAll s))).Leaves fun t => exRegs t = exRegs s :=
    (component_registers j _ h.2.1 h.2.2).imp fun _ ht => (ht.1 h.1).trans (by simp)
  by_cases hc : i = .compress
  · subst hc
    exact stage_exRegs .release (by decide) <| stage_exRegs .bpPack (by decide) <|
      stage_exRegs .serWrite (by decide) <| stage_exRegs .cgGen (by decide) <|
      stage_exRegs .tbBuild (by decide) <| stage_exRegs .tbLeaves (by decide) <|
      start .ftCount (by decide)
  · by_cases hd : i = .decompress
    · subst hd
      exact stage_exRegs .release (by decide) <| stage_exRegs .buUnpack (by decide) <|
        start .serRead (by decide)
    · exact (component_registers i s hc hd).imp fun _ ht => ht.1 hi

/-- Settles O15: every body but `PQ_EXTRACT2`'s leaves the registers, and that one writes them only
where it goes on. -/
theorem extractionRegistersHeldForHost : Obligations.ExtractionRegistersHeldForHost := by
  intro i s t h
  have kept (he : exRegs t = exRegs s) : t.ex0Idx = s.ex0Idx ∧ t.ex0Freq = s.ex0Freq ∧
      t.ex1Idx = s.ex1Idx ∧ t.ex1Freq = s.ex1Freq := by
    simpa [exRegs] using he
  by_cases hi : i = .pqExtract2
  · subst hi
    rw [exec_eq_finish, commandBody] at h
    rcases pqExtract2Body_cases s with ⟨k, hb⟩ | ⟨q, a, b, g, g', hq, h₁, h₂, hb⟩ <;> rw [hb] at h
    · cases h
      exact ⟨fun _ => kept (by simp), fun _ hr => by simp at hr⟩
    · cases h
      exact ⟨fun hn => by simp at hn, fun _ _ => ⟨q, a, b, g, g', hq, h₁, h₂, rfl, rfl, rfl, rfl⟩⟩
  · refine ⟨fun _ => kept ?_, fun he => absurd he hi⟩
    exact exec_of_leaves h (commandBody_exRegs i s hi) (by simp) (by simp)

/-! The information registers (10_state.md R23). -/

/-- Of the information registers `DECOMPRESS` writes those of its stage `SER_READ`. -/
theorem decompressBody_info (s : State) :
    (decompressBody s).Leaves fun t => t.nDistinct = s.nDistinct ∧ t.root = s.root := by
  refine Res.Leaves.andThen (Res.Leaves.andThen ?_ ?_) ?_
  · exact (serReadBody_writes _).imp (by rintro _ ⟨_, _, _, _, rfl⟩; simp)
  · intro u hu
    exact (buUnpackBody_writes u).imp (by rintro _ ⟨_, _, rfl⟩; exact hu)
  · exact fun u hu => hu

theorem commandBody_info (i : Instr) (s : State) : (commandBody i s).Leaves (InfoKept i s) := by
  by_cases hc : i = .compress
  · subst hc
    exact Res.leaves_of_forall _ fun u => by simp [InfoKept]
  · by_cases hd : i = .decompress
    · subst hd
      exact (decompressBody_info s).imp fun u hu => by simp [InfoKept, hu]
    · exact (component_registers i s hc hd).imp fun _ ht => ht.2

/-- Settles O16: the bodies keep to the column "written by" of R23, and neither end of a command
writes an information register. -/
theorem informationRegistersWriters : Obligations.InformationRegistersWriters := by
  intro i s t h
  exact exec_of_leaves (R := InfoKept i s) h (commandBody_info i s) (by simp [InfoKept])
    (by simp [InfoKept])

end Sys2Proof.Machine
end

section
/-! PROOFS. The heap's order (10_state.md R29; 41_priority_queue.md R143 to R146) and the queue's
invariant. -/

namespace Sys2Proof.Machine

theorem freqAt_of_getElem? {h : List HeapEntry} {i : Nat} {e : HeapEntry} (he : h[i]? = some e) :
    freqAt h i = e.freq.toNat := by
  simp [freqAt, he]

/-- Frequencies are read entry by entry: lists that agree at `i` agree in `freqAt` there. -/
theorem freqAt_congr {g h : List HeapEntry} {i : Nat} (he : g[i]? = h[i]?) :
    freqAt g i = freqAt h i := by
  simp [freqAt, he]

/-- A swap exchanges the two frequencies. -/
theorem freqAt_swapEntries {h : List HeapEntry} {i j : Nat} {a b : HeapEntry}
    (hi : h[i]? = some a) (hj : h[j]? = some b) (k : Nat) :
    freqAt (swapEntries h i j a b) k =
      if k = j then freqAt h i else if k = i then freqAt h j else freqAt h k := by
  have li := (List.getElem?_eq_some_iff.1 hi).1
  have lj := (List.getElem?_eq_some_iff.1 hj).1
  rw [freqAt_of_getElem? hi, freqAt_of_getElem? hj]
  unfold swapEntries
  split
  · rename_i hk
    subst hk
    exact freqAt_of_getElem? (by simp [lj])
  · rename_i hkj
    split
    · rename_i hki
      subst hki
      exact freqAt_of_getElem? (by simp [Ne.symm hkj, li])
    · rename_i hki
      exact freqAt_congr (by simp [Ne.symm hkj, Ne.symm hki])

/-- `SiftUp`'s invariant: in order but between entry `i` and its parent, whose other descendants
through `i` are not below it. -/
def OrderedButAt (h : List HeapEntry) (i : Nat) : Prop :=
  (∀ j, j < h.length → 0 < j → j ≠ i → freqAt h ((j - 1) / 2) ≤ freqAt h j) ∧
  (∀ j, j < h.length → 0 < j → (j - 1) / 2 = i → 0 < i → freqAt h ((i - 1) / 2) ≤ freqAt h j)

/-- `SiftDown`'s invariant: in order but between entry `i` and its children, which are not below
`i`'s parent. -/
def OrderedButBelow (h : List HeapEntry) (i : Nat) : Prop :=
  (∀ j, j < h.length → 0 < j → (j - 1) / 2 ≠ i → freqAt h ((j - 1) / 2) ≤ freqAt h j) ∧
  (∀ j, j < h.length → 0 < j → (j - 1) / 2 = i → 0 < i → freqAt h ((i - 1) / 2) ≤ freqAt h j)

/-- R143: a swap with a strictly greater parent moves the one disorder to the parent's place. -/
theorem OrderedButAt.swap {h : List HeapEntry} {i : Nat} {p e : HeapEntry}
    (ho : OrderedButAt h i) (hi : 0 < i) (hp : h[(i - 1) / 2]? = some p) (he : h[i]? = some e)
    (hlt : p.freq > e.freq) : OrderedButAt (swapEntries h ((i - 1) / 2) i p e) ((i - 1) / 2) := by
  obtain ⟨ho₁, ho₂⟩ := ho
  have hfreq := freqAt_swapEntries hp he
  have hlt' : freqAt h i < freqAt h ((i - 1) / 2) := by
    rw [freqAt_of_getElem? hp, freqAt_of_getElem? he]
    exact hlt
  have li := (List.getElem?_eq_some_iff.1 he).1
  refine ⟨fun j hj hj0 hne => ?_, fun j hj hj0 hpar hpi => ?_⟩ <;>
    rw [swapEntries_length] at hj <;> rw [hfreq, hfreq]
  · by_cases hji : j = i
    · subst hji
      rw [if_pos rfl, if_neg (by omega), if_pos rfl]
      exact Nat.le_of_lt hlt'
    · rw [if_neg hji, if_neg hne]
      by_cases hbelow : (j - 1) / 2 = i
      · rw [if_pos hbelow]
        exact ho₂ j hj hj0 hbelow hi
      · rw [if_neg hbelow]
        by_cases hsib : (j - 1) / 2 = (i - 1) / 2
        · rw [if_pos hsib]
          exact (Nat.le_of_lt hlt').trans (hsib ▸ ho₁ j hj hj0 hji)
        · rw [if_neg hsib]
          exact ho₁ j hj hj0 hji
  · have hgrand := ho₁ ((i - 1) / 2) (by omega) hpi (by omega)
    rw [if_neg (by omega : ((i - 1) / 2 - 1) / 2 ≠ i),
      if_neg (by omega : ((i - 1) / 2 - 1) / 2 ≠ (i - 1) / 2)]
    by_cases hji : j = i
    · rw [if_pos hji]
      exact hgrand
    · rw [if_neg hji, if_neg (by omega)]
      exact hgrand.trans (hpar ▸ ho₁ j hj hj0 hji)

theorem HeapOrdered.of_butAt {h : List HeapEntry} {i : Nat} (ho : OrderedButAt h i)
    (hi : 0 < i → i < h.length → freqAt h ((i - 1) / 2) ≤ freqAt h i) : HeapOrdered h := by
  intro j hj hj0
  by_cases hji : j = i
  · subst hji
    exact hi hj0 hj
  · exact ho.1 j hj hj0 hji

/-- R143: `SiftUp` ends the one disorder. -/
theorem siftUp_ordered (n : Nat) (h : List HeapEntry) (i : Nat) (hn : i ≤ n)
    (ho : OrderedButAt h i) : HeapOrdered (siftUp n h i) := by
  induction n generalizing h i with
  | zero => exact HeapOrdered.of_butAt ho (by omega)
  | succ n ih =>
    unfold siftUp
    split
    · exact HeapOrdered.of_butAt ho (by omega)
    · rename_i hi
      split
      · rename_i p e hp he
        split
        · rename_i hlt
          exact ih _ _ (by omega) (ho.swap (by omega) hp he hlt)
        · rename_i hle
          refine HeapOrdered.of_butAt ho fun _ _ => ?_
          rw [freqAt_of_getElem? hp, freqAt_of_getElem? he]
          exact Nat.le_of_not_lt hle
      · rename_i hnone
        refine HeapOrdered.of_butAt ho fun _ hlen => ?_
        exact absurd (List.getElem?_eq_getElem hlen)
          (hnone _ _ (List.getElem?_eq_getElem (by omega)))

/-- R144: `HeapInsert` keeps the order. -/
theorem heapPush_ordered {h : List HeapEntry} (e : HeapEntry) (ho : HeapOrdered h) :
    HeapOrdered (heapPush h e) := by
  have old (j : Nat) (hj : j < h.length) : freqAt (h ++ [e]) j = freqAt h j :=
    freqAt_congr (List.getElem?_append_left hj)
  refine siftUp_ordered _ _ _ (le_refl _) ⟨fun j hj hj0 hne => ?_, fun j hj hj0 hpar _ => ?_⟩
  · rw [List.length_append, List.length_singleton] at hj
    rw [old _ (by omega), old _ (by omega)]
    exact ho j (by omega) hj0
  · rw [List.length_append, List.length_singleton] at hj
    omega

/-- R145: the child chosen is one of the two, and no other live child is smaller. -/
theorem smallerChild_least {h : List HeapEntry} {i c : Nat} {x : HeapEntry}
    (hc : smallerChild h i = some (c, x)) :
    0 < c ∧ (c - 1) / 2 = i ∧
      ∀ j, j < h.length → 0 < j → (j - 1) / 2 = i → freqAt h c ≤ freqAt h j := by
  have child {j : Nat} (h0 : 0 < j) (hj : (j - 1) / 2 = i) : j = 2 * i + 1 ∨ j = 2 * i + 2 := by
    omega
  unfold smallerChild at hc
  split at hc
  · cases hc
  · rename_i l hl
    split at hc
    · rename_i hr
      cases hc
      refine ⟨by omega, by omega, fun j hj hj0 hji => ?_⟩
      rcases child hj0 hji with rfl | rfl
      · exact le_refl _
      · exact absurd hj (by simpa using hr)
    · rename_i r hr
      have hfl := freqAt_of_getElem? hl
      have hfr := freqAt_of_getElem? hr
      split at hc
      · rename_i hlt
        cases hc
        refine ⟨by omega, by omega, fun j hj hj0 hji => ?_⟩
        rcases child hj0 hji with rfl | rfl
        · rw [hfl, hfr]
          exact Nat.le_of_lt hlt
        · exact le_refl _
      · rename_i hle
        cases hc
        refine ⟨by omega, by omega, fun j hj hj0 hji => ?_⟩
        rcases child hj0 hji with rfl | rfl
        · exact le_refl _
        · rw [hfl, hfr]
          exact Nat.le_of_not_lt hle

theorem smallerChild_none {h : List HeapEntry} {i : Nat} (hc : smallerChild h i = none) :
    h.length ≤ 2 * i + 1 := by
  unfold smallerChild at hc
  split at hc
  · rename_i hl
    simpa using hl
  · split at hc
    · cases hc
    · split at hc <;> cases hc

theorem HeapOrdered.of_butBelow {h : List HeapEntry} {i : Nat} (ho : OrderedButBelow h i)
    (hi : ∀ j, j < h.length → 0 < j → (j - 1) / 2 = i → freqAt h i ≤ freqAt h j) :
    HeapOrdered h := by
  intro j hj hj0
  by_cases hji : (j - 1) / 2 = i
  · rw [hji]
    exact hi j hj hj0 hji
  · exact ho.1 j hj hj0 hji

/-- R145: a swap with a strictly smaller, least child moves the one disorder below that child. -/
theorem OrderedButBelow.swap {h : List HeapEntry} {i c : Nat} {e x : HeapEntry}
    (ho : OrderedButBelow h i) (he : h[i]? = some e) (hc : smallerChild h i = some (c, x))
    (hlt : e.freq > x.freq) : OrderedButBelow (swapEntries h i c e x) c := by
  obtain ⟨ho₁, ho₂⟩ := ho
  obtain ⟨hx, hic⟩ := smallerChild_some hc
  obtain ⟨hc0, hci, hleast⟩ := smallerChild_least hc
  have hfreq := freqAt_swapEntries he hx
  have hlt' : freqAt h c < freqAt h i := by
    rw [freqAt_of_getElem? hx, freqAt_of_getElem? he]
    exact hlt
  have lc := (List.getElem?_eq_some_iff.1 hx).1
  refine ⟨fun j hj hj0 hne => ?_, fun j hj hj0 hpar _ => ?_⟩ <;>
    rw [swapEntries_length] at hj <;> rw [hfreq, hfreq]
  · rw [if_neg hne]
    by_cases hjc : j = c
    · rw [if_pos hjc, if_pos (hjc ▸ hci)]
      exact Nat.le_of_lt hlt'
    · rw [if_neg hjc]
      by_cases hchild : (j - 1) / 2 = i
      · rw [if_pos hchild, if_neg (by omega)]
        exact hleast j hj hj0 hchild
      · rw [if_neg hchild]
        by_cases hji : j = i
        · subst hji
          rw [if_pos rfl]
          exact ho₂ c lc hc0 hci hj0
        · rw [if_neg hji]
          exact ho₁ j hj hj0 hchild
  · rw [hci, if_neg (by omega : i ≠ c), if_pos rfl, if_neg (by omega), if_neg (by omega)]
    exact hpar ▸ ho₁ j hj hj0 (by omega)

/-- R145: `SiftDown` ends the one disorder. -/
theorem siftDown_ordered (n : Nat) (h : List HeapEntry) (i : Nat) (hn : h.length ≤ n + i)
    (ho : OrderedButBelow h i) : HeapOrdered (siftDown n h i) := by
  induction n generalizing h i with
  | zero =>
    have ended : HeapOrdered h := HeapOrdered.of_butBelow ho fun j hj hj0 hji => by omega
    exact ended
  | succ n ih =>
    unfold siftDown
    split
    · rename_i e c x he hc
      have hic := (smallerChild_some hc).2
      split
      · rename_i hlt
        exact ih _ _ (by rw [swapEntries_length]; omega) (ho.swap he hc hlt)
      · rename_i hle
        refine HeapOrdered.of_butBelow ho fun j hj hj0 hji => ?_
        refine Nat.le_trans ?_ ((smallerChild_least hc).2.2 j hj hj0 hji)
        rw [freqAt_of_getElem? he, freqAt_of_getElem? (smallerChild_some hc).1]
        exact Nat.le_of_not_lt hle
    · rename_i hnone
      refine HeapOrdered.of_butBelow ho fun j hj hj0 hji => ?_
      have hi : i < h.length := by omega
      cases hc : smallerChild h i with
      | none =>
        have := smallerChild_none hc
        omega
      | some p => exact absurd hc (hnone _ _ _ (List.getElem?_eq_getElem hi))

/-- R146: `HeapRemoveMin` keeps the order. -/
theorem heapPop_ordered {h h' : List HeapEntry} {a : HeapEntry} (ho : HeapOrdered h)
    (hp : heapPop h = some (a, h')) : HeapOrdered h' := by
  unfold heapPop at hp
  split at hp
  · rename_i m last hm hl
    cases hp
    have len : ((h.take (h.length - 1)).set 0 last).length = h.length - 1 := by simp
    have old (j : Nat) (h0 : j ≠ 0) (hj : j < h.length - 1) :
        freqAt ((h.take (h.length - 1)).set 0 last) j = freqAt h j :=
      freqAt_congr (by simp [Ne.symm h0, hj])
    refine siftDown_ordered _ _ _ (by omega) ⟨fun j hj hj0 hne => ?_, fun _ _ _ _ h0 => ?_⟩
    · rw [old _ (by omega) (by omega), old _ (by omega) (by omega)]
      exact ho j (by omega) hj0
    · exact absurd h0 (Nat.lt_irrefl 0)
  · cases hp

/-- The order looks at frequencies alone. -/
theorem HeapOrdered.of_freqs {g h : List HeapEntry} (ho : HeapOrdered h)
    (hl : g.length = h.length) (hf : ∀ i, freqAt g i = freqAt h i) : HeapOrdered g := by
  intro i hi hi0
  rw [hf, hf]
  exact ho i (hl ▸ hi) hi0

/-! The queue's invariant. -/

theorem QueueWf.push {q : Queue} (h : QueueWf q) (e : HeapEntry)
    (hne : q.entries.length ≠ q.cap.toNat) :
    QueueWf { q with entries := heapPush q.entries e } := by
  obtain ⟨hc, hc', hl, ho⟩ := h
  refine ⟨hc, hc', ?_, heapPush_ordered e ho⟩
  simp only [heapPush_length]
  omega

theorem QueueWf.pop {q : Queue} {a : HeapEntry} {h' : List HeapEntry} (h : QueueWf q)
    (hp : heapPop q.entries = some (a, h')) : QueueWf { q with entries := h' } := by
  obtain ⟨hc, hc', hl, ho⟩ := h
  have := (heapPop_some hp).2.2
  exact ⟨hc, hc', by dsimp only; omega, heapPop_ordered ho hp⟩

/-- R165: replacing the first entry by one of the same frequency. -/
theorem QueueWf.set_first {q : Queue} {e e' : HeapEntry} (h : QueueWf q)
    (he : q.entries[0]? = some e) (hf : e'.freq = e.freq) :
    QueueWf { q with entries := q.entries.set 0 e' } := by
  obtain ⟨hc, hc', hl, ho⟩ := h
  refine ⟨hc, hc', by simpa using hl, ho.of_freqs (by simp) fun i => ?_⟩
  have l0 := (List.getElem?_eq_some_iff.1 he).1
  by_cases hi : i = 0
  · subst hi
    rw [freqAt_of_getElem? he, freqAt_of_getElem? (e := e') (by simp [l0]), hf]
  · exact freqAt_congr (by simp [Ne.symm hi])

end Sys2Proof.Machine
end

section
/-! PROOFS. The forms of working nodes, the codes the traversal records, and the counting of a
source: the facts behind the invariant's clauses on the tree, the codes and the table. -/

namespace Sys2Proof.Machine

/-! The working tree and the codes (10_state.md R30 to R35). -/

@[simp] theorem childOf_toNat (i : NodeIdx) : (childOf i).toNat = i.toNat :=
  BitVec.toNat_setWidth_of_le (by decide)

theorem childOf_ne_noChild (i : NodeIdx) : childOf i ≠ Config.noChild := by
  intro h
  have hn := congrArg BitVec.toNat h
  have hi := i.isLt
  rw [childOf_toNat] at hn
  simp at hn
  omega

/-- R33: a node with a left child before it is well formed if its right slot is empty or before it
too. -/
theorem nodeWf_of_children {n : WorkNode} {i : Nat} {l : NodeIdx} (hl : n.left = childOf l)
    (hli : l.toNat < i) (hr : n.right = Config.noChild ∨ n.right.toNat < i) :
    nodeWf n i = true := by
  simp [nodeWf, hl, hli, hr, childOf_ne_noChild]

theorem nodeWf_of_isLeaf {n : WorkNode} (h : n.isLeaf = true) (i : Nat) : nodeWf n i = true := by
  simp [nodeWf, h]

theorem nodesWf_iff {nodes : List WorkNode} :
    (∀ p ∈ nodes.zipIdx, nodeWf p.1 p.2 = true) ↔
      ∀ i n, nodes[i]? = some n → nodeWf n i = true :=
  ⟨fun h i n hn => h (n, i) (List.mem_zipIdx_iff_getElem?.2 hn),
    fun h p hp => h p.2 p.1 (List.mem_zipIdx_iff_getElem?.1 hp)⟩

/-- R163, R164: a well-formed node behind the others, with room for it. -/
theorem ArenaWf.append {a : Arena} {n : WorkNode} {c : BitVec 10} (h : ArenaWf a)
    (hn : nodeWf n a.nodes.length = true) (hc : a.nodes.length < c.toNat)
    (hc' : c.toNat ≤ Config.arenaDepth) : ArenaWf { nodes := a.nodes ++ [n], cap := c } := by
  obtain ⟨-, -, -, hwf⟩ := h
  refine ⟨by dsimp only; omega, hc', by simpa using hc, nodesWf_iff.2 fun i m hm => ?_⟩
  rcases Nat.lt_trichotomy i a.nodes.length with hi | rfl | hi
  · rw [List.getElem?_append_left hi] at hm
    exact nodesWf_iff.1 hwf i m hm
  · simp at hm
    exact hm ▸ hn
  · rw [List.getElem?_eq_none (by simpa using hi)] at hm
    cases hm

/-- The marks play no part in a node's form. -/
theorem ArenaWf.of_unmarked {a : Arena} {nodes : List WorkNode} (h : ArenaWf a)
    (hu : unmarked nodes = unmarked a.nodes) : ArenaWf { a with nodes := nodes } := by
  obtain ⟨h₁, h₂, h₃, hwf⟩ := h
  have hlen : nodes.length = a.nodes.length := by
    simpa [unmarked] using congrArg List.length hu
  refine ⟨h₁, h₂, by simpa [hlen] using h₃, nodesWf_iff.2 fun i n hn => ?_⟩
  have hi := congrArg (·[i]?) hu
  simp only [unmarked, List.getElem?_map, hn, Option.map_some] at hi
  obtain ⟨m, hm, he⟩ := Option.map_eq_some_iff.1 hi.symm
  have hw := nodesWf_iff.1 hwf i m hm
  simp only [WorkNode.mk.injEq] at he
  obtain ⟨-, -, hleft, hright, -⟩ := he
  simpa only [nodeWf, WorkNode.isLeaf, hleft, hright] using hw

theorem unmarked_clearMarks (nodes : List WorkNode) :
    unmarked (clearMarks nodes) = unmarked nodes := by
  simp [unmarked, clearMarks]

theorem unmarked_markVisited (nodes : List WorkNode) (n : Nat) :
    unmarked (markVisited nodes n) = unmarked nodes := by
  refine List.ext_getElem? fun i => ?_
  simp only [unmarked, markVisited, List.getElem?_map, List.getElem?_modify]
  cases nodes[i]? with
  | none => simp
  | some m => by_cases h : n = i <;> simp [h]

theorem codesFit_iff {c : CodeTable} :
    codesFit c = true ↔ ∀ bits ∈ c.toList, bits.length ≤ Config.maxCodeLen := by
  simp only [codesFit, List.all_eq_true, decide_eq_true_eq]

theorem codesFit_empty : codesFit (Vector.replicate 256 []) = true :=
  codesFit_iff.2 fun bits hb => by
    rw [Vector.toList_replicate] at hb
    rw [List.eq_of_mem_replicate hb]
    exact Nat.zero_le _

theorem codesFit_tableSet {c : CodeTable} {bits : List Bool} (b : Byte) (hc : codesFit c = true)
    (hb : bits.length ≤ Config.maxCodeLen) : codesFit (tableSet c b bits) = true := by
  refine codesFit_iff.2 fun bits' h => ?_
  rw [tableSet, Vector.toList_set] at h
  rcases List.mem_or_eq_of_mem_set h with h | rfl
  · exact codesFit_iff.1 hc bits' h
  · exact hb

/-- R181: a step down that is not an overflow leaves the path within the path store. -/
theorem path_fits_of_push {sp : Nat} {path : List Bool} (b : Bool)
    (h : ¬ pushOverflows sp path.length = true) (hp : path.length ≤ Config.maxCodeLen) :
    (b :: path).length ≤ Config.maxCodeLen := by
  simp only [pushOverflows, Bool.or_eq_true, decide_eq_true_eq, not_or] at h
  rw [List.length_cons]
  omega

/-- R181: the walk writes marks only, and only codes that fit. -/
theorem walkLoop_done {k : Nat} {nodes nodes' : List WorkNode} {code code' : CodeTable}
    {stk : List Nat} {path : List Bool} (h : walkLoop k nodes code stk path = .done nodes' code')
    (hp : path.length ≤ Config.maxCodeLen) (hc : codesFit code = true) :
    unmarked nodes' = unmarked nodes ∧ codesFit code' = true := by
  have hpop : path.tail.length ≤ Config.maxCodeLen := by
    rw [List.length_tail]
    omega
  induction k generalizing nodes code stk path with
  | zero => cases h
  | succ k ih =>
    have push {b : Bool} {nodes : List WorkNode} {stk : List Nat} {sp : Nat}
        (hn : ¬ pushOverflows sp path.length = true)
        (h : walkLoop k nodes code stk (b :: path) = .done nodes' code') :=
      ih h (path_fits_of_push b hn hp) hc hp
    have pop {code : CodeTable} {n : Nat} {stk : List Nat} (hc : codesFit code = true)
        (h : walkLoop k (markVisited nodes n) code stk path.tail = .done nodes' code') :
        unmarked nodes' = unmarked nodes ∧ codesFit code' = true := by
      have htail : path.tail.tail.length ≤ Config.maxCodeLen := by
        rw [List.length_tail]
        omega
      rw [← unmarked_markVisited nodes n]
      exact ih h hpop hc htail
    cases stk with
    | nil =>
      cases h
      exact ⟨rfl, hc⟩
    | cons n stk =>
      rw [walkLoop] at h
      split at h
      · cases h
      · split at h
        · exact pop (codesFit_tableSet _ hc (by simpa using hp)) h
        · split at h
          · cases h
          · split at h
            · cases h
            · rename_i hn
              exact push hn h
          · split at h
            · cases h
            · split at h
              · cases h
              · rename_i hn
                exact push hn h
            · exact pop hc h

/-! Counting (40_frequency_table.md R130, R131). -/

theorem tableGet_tableSet {α : Type} (t : Vector α 256) (b c : Byte) (v : α) :
    tableGet (tableSet t b v) c = if c = b then v else tableGet t c := by
  have hbc : b.toNat = c.toNat ↔ c = b := by
    rw [BitVec.toNat_inj, eq_comm]
  simp only [tableGet, tableSet, Vector.getElem_set, hbc]

/-- What the counting loop keeps: no counter is past the number `t` of bytes counted, so none has
wrapped round, and a counted byte has left its mark. -/
def Counted (ft : FreqTable) (t : Nat) : Prop :=
  t ≤ Config.maxInput ∧ (∀ b, (tableGet ft b).toNat ≤ t) ∧ (0 < t → ∃ b, tableGet ft b ≠ 0)

theorem Counted.zero : Counted (Vector.replicate 256 0) 0 :=
  ⟨by decide, fun b => by simp [tableGet], fun h => absurd h (Nat.lt_irrefl 0)⟩

theorem Counted.bump {ft : FreqTable} {t : Nat} (h : Counted ft t) (ht : t ≠ Config.maxInput)
    (b : Byte) : Counted (bumpCount ft b) (t + 1) := by
  obtain ⟨hmax, hle, -⟩ := h
  have hlt : t < 4294967295 := Nat.lt_of_le_of_ne hmax ht
  have hnew : (tableGet ft b + 1).toNat = (tableGet ft b).toNat + 1 := by
    have := hle b
    rw [BitVec.toNat_add]
    simp
    omega
  refine ⟨hlt, fun c => ?_, fun _ => ⟨b, ?_⟩⟩
  · rw [bumpCount, tableGet_tableSet]
    split
    · rw [hnew]
      exact Nat.succ_le_succ (hle b)
    · exact Nat.le_succ_of_le (hle c)
  · rw [bumpCount, tableGet_tableSet, if_pos rfl]
    intro h0
    rw [h0] at hnew
    simp at hnew

theorem tableGet_mem {α : Type} (t : Vector α 256) (b : Byte) : tableGet t b ∈ t.toList := by
  simp [tableGet]

theorem distinctCount_pos {ft : FreqTable} {b : Byte} (h : tableGet ft b ≠ 0) :
    1 ≤ distinctCount ft :=
  List.countP_pos_iff.2 ⟨_, tableGet_mem ft b, by simpa using h⟩

theorem distinctCount_le (ft : FreqTable) : distinctCount ft ≤ 256 :=
  List.countP_le_length.trans (by simp)

/-- A table listed by byte value. -/
theorem toList_eq_map_tableGet {α : Type} (t : Vector α 256) :
    t.toList = (List.range 256).map fun i => tableGet t (BitVec.ofNat 8 i) := by
  refine List.ext_getElem (by simp) fun i h₁ h₂ => ?_
  have hi : i % 256 = i := Nat.mod_eq_of_lt (by simpa using h₁)
  simp [tableGet, hi]

/-- R131, 42_tree_builder.md R161: as many leaves as byte values that occur. -/
theorem leavesOf_length (ft : FreqTable) : (leavesOf ft).length = distinctCount ft := by
  unfold leavesOf distinctCount
  rw [List.length_filterMap_eq_countP, toList_eq_map_tableGet, List.countP_map]
  refine List.countP_congr fun i _ => ?_
  by_cases h : tableGet ft (BitVec.ofNat 8 i) = 0 <;> simp [h]

theorem isLeaf_of_mem_leavesOf {ft : FreqTable} {n : WorkNode} (h : n ∈ leavesOf ft) :
    n.isLeaf = true := by
  obtain ⟨i, -, hi⟩ := List.mem_filterMap.1 h
  dsimp only at hi
  split at hi
  · cases hi
  · cases hi
    rfl

/-- R161: the arena of the leaves, as large as it has to be. -/
theorem leaves_arenaWf {ft : FreqTable} {d : BitVec 9} (hd : d.toNat = distinctCount ft)
    (hpos : 1 ≤ distinctCount ft) : ArenaWf { nodes := leavesOf ft, cap := d.setWidth 10 } := by
  have hcap : (d.setWidth 10).toNat = distinctCount ft := by
    rw [BitVec.toNat_setWidth_of_le (by decide), hd]
  have hle := distinctCount_le ft
  refine ⟨hpos.trans_eq hcap.symm, (hcap.trans_le hle).trans (by decide),
    ((leavesOf_length ft).trans hcap.symm).le, nodesWf_iff.2 fun i n hn => ?_⟩
  exact nodeWf_of_isLeaf (isLeaf_of_mem_leavesOf (List.mem_of_getElem? hn)) i

end Sys2Proof.Machine
end

section
/-! PROOFS. The invariant is kept by every shared operation, every command's body, every command and
every step (O10). -/

namespace Sys2Proof.Machine

/-! The invariant is kept by the shared operations. -/

/-- The part of the invariant that speaks of the streams: all that a failure entry needs. -/
structure StreamsWf (s : State) : Prop where
  src_pos_le : s.srcPos ≤ s.src.length
  snk_unbound : s.snkBound = false → s.snk = []
  snk_fits : allows s.snkFailAt s.snk.length = true

/-- Where a body may raise: with a kind that some rule raises (60_exceptions.md R253), its streams
in order. -/
def RaisesWf (k : ErrorKind) (s : State) : Prop :=
  k ≠ .unknownError ∧ StreamsWf s

/-- Where the pseudocode goes on the invariant holds, and where it raises the failure entry will
restore it. -/
def Res.KeepsInv {α : Type} (m : Res α) : Prop :=
  m.Meets (fun _ t => t.Inv) RaisesWf

theorem Res.KeepsInv.andThen {m : Res Unit} {g : State → Res Unit} (hm : m.KeepsInv)
    (hg : ∀ u, u.Inv → (g u).KeepsInv) : (m.andThen g).KeepsInv :=
  Res.Meets.andThen hm hg

theorem allows_zero (f : Option Nat) : allows f 0 = true := by
  cases f <;> simp [allows]

section
variable {s t : State}

theorem State.Inv.streams (h : s.Inv) : StreamsWf s :=
  ⟨h.src_pos_le, h.snk_unbound, h.snk_fits⟩

theorem State.Inv.raises (h : s.Inv) {k : ErrorKind} (hk : k ≠ .unknownError) : RaisesWf k s :=
  ⟨hk, h.streams⟩

/-- 60_exceptions.md R257: a failure leaves no structure, so only the streams matter. -/
theorem RaisesWf.failureEntry {k : ErrorKind} (h : RaisesWf k s) : (failureEntry k s).Inv := by
  obtain ⟨hk, hpos, hunb, hfit⟩ := h
  exact {
    result_before_done := fun hd => by simp at hd
    result_known := by simpa using hk
    ft_wf := by simp
    arena_wf := by simp
    queue_wf := by simp
    root_wf := fun hr => by simp at hr
    code_wf := by simp
    ftree_wf := by simp
    src_pos_le := by simpa using hpos
    snk_unbound := fun hb => by
      rw [failureEntry_snkBound] at hb
      rw [failureEntry_snk, hb]
      exact hunb hb
    snk_fits := by
      rw [failureEntry_snkFailAt, failureEntry_snk]
      split
      · exact allows_zero _
      · exact hfit }

theorem State.Inv.complete (h : s.Inv) : (complete s).Inv :=
  { h with
    result_before_done := fun _ => rfl
    result_known := fun he => by cases he }

/-- 10_state.md R42: a release leaves nothing to be said of the structures. -/
theorem State.Inv.releaseAll (h : s.Inv) : (releaseAll s).Inv :=
  { h with
    ft_wf := by simp
    arena_wf := by simp
    queue_wf := by simp
    root_wf := fun hr => by cases hr
    code_wf := by simp
    ftree_wf := by simp }

theorem State.Inv.snkTruncate (h : s.Inv) : (snkTruncate s).Inv := by
  unfold Machine.snkTruncate
  split
  · exact { h with snk_unbound := fun _ => rfl, snk_fits := allows_zero _ }
  · exact h

theorem State.Inv.srcRewind (h : s.Inv) : (srcRewind s).Inv :=
  { h with src_pos_le := Nat.zero_le _ }

/-- 20_memory.md R63: a byte is returned only from before the end. -/
theorem State.Inv.srcNext (h : s.Inv) {b : Byte} (hn : srcNext s = .byte b t) : t.Inv := by
  have hlt := srcNext_byte_lt hn
  obtain ⟨-, -, -, rfl⟩ := srcNext_byte hn
  exact { h with src_pos_le := hlt }

theorem State.Inv.set_queue (h : s.Inv) {q : Option Queue} (hq : ∀ q' ∈ q, QueueWf q') :
    State.Inv { s with pq := q } :=
  { h with queue_wf := hq }

/-- A tree replaced by one at least as long: `root` still names a node. -/
theorem State.Inv.set_arena (h : s.Inv) {a : Arena} (ha : ArenaWf a)
    (hl : arenaLen s ≤ a.nodes.length) : State.Inv { s with arena := some a } :=
  { h with
    arena_wf := by rintro _ ⟨⟩; exact ha
    root_wf := fun hr => (h.root_wf hr).trans_le hl }

/-- 42_tree_builder.md R165: a root is set, and the codes of the tree before are dropped. -/
theorem State.Inv.set_root (h : s.Inv) {r : NodeIdx} (hr : r.toNat < arenaLen s) :
    State.Inv { s with root := r, rootValid := true, code := none } :=
  { h with
    root_wf := fun _ => hr
    code_wf := by rintro _ ⟨⟩ }

theorem State.Inv.set_treeSize (h : s.Inv) (n : BitVec 16) : State.Inv { s with treeSize := n } :=
  { h with }

end

/-! The streams. -/

theorem snkPut_keepsInv {s : State} (h : s.Inv) (b : Byte) : (snkPut b s).KeepsInv := by
  rcases snkPut_cases b s with ⟨⟨hb, hf⟩, he⟩ | ⟨-, he⟩ <;> rw [he]
  · exact { h with
      snk_unbound := fun hu => by simp [hb] at hu
      snk_fits := by simpa using hf }
  · exact h.raises (by decide)

theorem snkPutAll_keepsInv {s : State} (h : s.Inv) (bs : List Byte) :
    (snkPutAll bs s).KeepsInv := by
  induction bs generalizing s with
  | nil => exact h
  | cons b bs ih => exact (snkPut_keepsInv h b).andThen fun u hu => ih hu

theorem getLE_keepsInv {s : State} (h : s.Inv) (n : Nat) : (getLE n s).KeepsInv := by
  induction n generalizing s with
  | zero => exact h
  | succ n ih =>
    unfold getLE
    split
    · exact h.raises (by decide)
    · exact h.raises (by decide)
    · rename_i hn
      exact Res.Meets.bind (ih (h.srcNext hn)) fun v u hu => hu

theorem readRecord_keepsInv {s : State} (h : s.Inv) : (readRecord s).KeepsInv :=
  Res.Meets.bind (getLE_keepsInv h 1) fun _ _ hu =>
    Res.Meets.bind (getLE_keepsInv hu 2) fun _ _ hv =>
      Res.Meets.bind (getLE_keepsInv hv 2) fun _ _ hw => hw

theorem readRecords_keepsInv {s : State} (h : s.Inv) (n : Nat) :
    (readRecords n s).Meets (fun xs t => t.Inv ∧ xs.length = n) RaisesWf := by
  induction n generalizing s with
  | zero => exact ⟨h, rfl⟩
  | succ n ih =>
    refine Res.Meets.bind (readRecord_keepsInv h) fun x u hu => ?_
    exact Res.Meets.bind (ih hu) fun xs v hv => ⟨hv.1, congrArg (· + 1) hv.2⟩

theorem countLoop_keepsInv (n : Nat) {ft : FreqTable} {t : Nat} {s : State} (h : s.Inv)
    (hc : Counted ft t) :
    (countLoop n ft t s).Meets (fun p u => u.Inv ∧ Counted p.1 p.2) RaisesWf := by
  induction n generalizing ft t s with
  | zero => trivial
  | succ n ih =>
    unfold countLoop
    split
    · exact h.raises (by decide)
    · exact ⟨h, hc⟩
    · rename_i b u hn
      split
      · exact (h.srcNext hn).raises (by decide)
      · rename_i ht
        exact ih (h.srcNext hn) (hc.bump ht b)

theorem packBits_keepsInv {s : State} (h : s.Inv) (bits : List Bool) (acc : Byte) (m : Nat) :
    (packBits bits acc m s).KeepsInv := by
  induction bits generalizing acc m s with
  | nil => exact h
  | cons b bs ih =>
    unfold packBits
    dsimp only
    split
    · exact Res.Meets.bind (snkPut_keepsInv h _) fun _ u hu => ih hu 0 0
    · exact ih h _ _

theorem packLoop_keepsInv (code : CodeTable) (n : Nat) {s : State} (h : s.Inv) (acc : Byte)
    (m : Nat) : (packLoop code n acc m s).KeepsInv := by
  induction n generalizing acc m s with
  | zero => trivial
  | succ n ih =>
    unfold packLoop
    split
    · exact h.raises (by decide)
    · exact h
    · rename_i hn
      split
      · exact (h.srcNext hn).raises (by decide)
      · exact Res.Meets.bind (packBits_keepsInv (h.srcNext hn) _ _ _) fun p u hu => ih hu p.1 p.2

theorem walkBits_keepsInv (nodeAt : Nat → FinalNode) (rt total : Nat) (bits : List Bool)
    {s : State} (h : s.Inv) (cur emitted : Nat) :
    (walkBits nodeAt rt total bits cur emitted s).KeepsInv := by
  induction bits generalizing cur emitted s with
  | nil => exact h
  | cons bit bits ih =>
    unfold walkBits
    dsimp only
    generalize (if bit = true then (nodeAt cur).right else (nodeAt cur).left) = nxt
    split
    · exact h.raises (by decide)
    · split
      · refine Res.Meets.bind (snkPut_keepsInv h _) fun _ u hu => ?_
        split
        · exact hu
        · exact ih hu _ _
      · exact ih h _ _

theorem unpackLoop_keepsInv (nodeAt : Nat → FinalNode) (rt total n : Nat) {s : State} (h : s.Inv)
    (cur emitted : Nat) : (unpackLoop nodeAt rt total n cur emitted s).KeepsInv := by
  induction n generalizing cur emitted s with
  | zero => trivial
  | succ n ih =>
    unfold unpackLoop
    split
    · split
      · exact h.raises (by decide)
      · exact h.raises (by decide)
      · rename_i hn
        exact Res.Meets.bind (walkBits_keepsInv nodeAt rt total _ (h.srcNext hn) _ _)
          fun p u hu => ih hu p.1 p.2
    · exact h

/-! The queue and the tree. -/

theorem heapInsert_keepsQueue (e : HeapEntry) {s : State} (hq : ∀ q ∈ s.pq, QueueWf q) :
    (heapInsert e s).Meets
      (fun _ t => (∀ q ∈ t.pq, QueueWf q) ∧ ∃ q, t = { s with pq := q })
      (fun k t => k ≠ .unknownError ∧ ∃ q, t = { s with pq := q }) := by
  rcases heapInsert_cases e s with ⟨-, h⟩ | ⟨q, hs, ⟨-, h⟩ | ⟨hne, h⟩⟩ <;> rw [h]
  · exact ⟨by decide, _, rfl⟩
  · exact ⟨by decide, _, rfl⟩
  · refine ⟨?_, _, rfl⟩
    rintro _ ⟨⟩
    exact (hq q hs).push e hne

theorem heapInsert_keepsInv (e : HeapEntry) {s : State} (h : s.Inv) :
    (heapInsert e s).KeepsInv := by
  refine (heapInsert_keepsQueue e h.queue_wf).imp ?_ ?_
  · rintro _ _ ⟨hq, q, rfl⟩
    exact h.set_queue hq
  · rintro k _ ⟨hk, q, rfl⟩
    exact ⟨hk, h.src_pos_le, h.snk_unbound, h.snk_fits⟩

theorem insertLeaves_keepsQueue (nodes : List WorkNode) (is : List Nat) {s : State}
    (hq : ∀ q ∈ s.pq, QueueWf q) :
    (insertLeaves nodes is s).Meets
      (fun _ t => (∀ q ∈ t.pq, QueueWf q) ∧ ∃ q, t = { s with pq := q })
      (fun k t => k ≠ .unknownError ∧ ∃ q, t = { s with pq := q }) := by
  induction is generalizing s with
  | nil => exact ⟨hq, _, rfl⟩
  | cons i is ih =>
    unfold insertLeaves
    split
    · trivial
    · refine (heapInsert_keepsQueue _ hq).andThen ?_
      rintro _ ⟨hq', q, rfl⟩
      exact (ih hq').imp (fun _ _ ⟨h, q', ht⟩ => ⟨h, q', ht⟩) fun _ _ ⟨h, q', ht⟩ => ⟨h, q', ht⟩

theorem heapExtract2_keepsInv {s : State} (h : s.Inv) : (heapExtract2 s).KeepsInv := by
  rcases heapExtract2_cases s with ⟨-, he⟩ | ⟨q, hq, ⟨-, he⟩ | ⟨a, b, g, g', h₁, h₂, -, he⟩⟩ <;>
    rw [he]
  · exact h.raises (by decide)
  · exact h.raises (by decide)
  · refine h.set_queue ?_
    rintro _ ⟨⟩
    exact ((h.queue_wf q hq).pop h₁).pop h₂

theorem arenaAppend_keepsInv {n : WorkNode} {s : State} (h : s.Inv)
    (hn : nodeWf n (arenaLen s) = true) :
    (arenaAppend n s).Meets
      (fun _ t => t.Inv ∧ t.pq = s.pq ∧ arenaLen t = arenaLen s + 1) RaisesWf := by
  unfold arenaAppend
  split
  · exact h.raises (by decide)
  · rename_i a ha
    have hwf := h.arena_wf a ha
    obtain ⟨hc, hc', hl, -⟩ := h.arena_wf a ha
    have hlen : arenaLen s = a.nodes.length := by simp [arenaLen, ha]
    rw [hlen] at hn
    have appended {c : BitVec 10} (hlt : a.nodes.length < c.toNat) (hle : c.toNat ≤ 512) :
        State.Inv { s with arena := some { nodes := a.nodes ++ [n], cap := c } } :=
      h.set_arena (hwf.append hn hlt hle) (by simp [hlen])
    have hlen' {c : BitVec 10} :
        arenaLen { s with arena := some { nodes := a.nodes ++ [n], cap := c } } =
          arenaLen s + 1 := by
      rw [hlen]
      simp [arenaLen]
    split
    · split
      · exact h.raises (by decide)
      · rename_i heq hroom
        have hroom' : 2 * a.cap.toNat ≤ 512 := Nat.le_of_not_lt hroom
        have hdouble : (BitVec.ofNat 10 (2 * a.cap.toNat)).toNat = 2 * a.cap.toNat := by
          rw [BitVec.toNat_ofNat]
          exact Nat.mod_eq_of_lt (by omega)
        exact ⟨appended (by omega) (by omega), rfl, hlen'⟩
    · exact ⟨appended (by omega) hc', rfl, hlen'⟩

theorem State.Inv.arenaLen_le {s : State} (h : s.Inv) : arenaLen s ≤ 512 := by
  cases ha : s.arena with
  | none => simp [arenaLen, ha]
  | some a =>
    obtain ⟨-, hc, hl, -⟩ := h.arena_wf a ha
    have := hl.trans hc
    simpa [arenaLen, ha] using this

theorem mergeStep_keepsInv {s : State} (h : s.Inv) : (mergeStep s).KeepsInv := by
  unfold mergeStep
  refine Res.Meets.bind (heapExtract2_keepsInv h) fun p u hu => ?_
  split
  · exact hu.raises (by decide)
  · rename_i hlive
    rw [not_or, Nat.not_le, Nat.not_le] at hlive
    split
    · exact hu.raises (by decide)
    · refine Res.Meets.andThen (arenaAppend_keepsInv hu ?_) fun v hv => ?_
      · exact nodeWf_of_children rfl hlive.1 (.inr (by simpa using hlive.2))
      · exact heapInsert_keepsInv _ hv.1

theorem buildLoop_keepsInv (n : Nat) {s : State} (h : s.Inv) : (buildLoop n s).KeepsInv := by
  induction n generalizing s with
  | zero => exact h
  | succ n ih =>
    unfold buildLoop
    split
    · exact (mergeStep_keepsInv h).andThen fun u hu => ih hu
    · exact h

theorem replaceFirst_keepsInv {s : State} {q : Queue} {e e' : HeapEntry} (h : s.Inv)
    (hq : s.pq = some q) (he : q.entries[0]? = some e) (hf : e'.freq = e.freq) :
    (replaceFirst e' s).Inv := by
  rw [replaceFirst, hq]
  refine h.set_queue ?_
  rintro _ ⟨⟩
  exact (h.queue_wf q hq).set_first he hf

theorem arenaLen_replaceFirst (e : HeapEntry) (s : State) :
    arenaLen (replaceFirst e s) = arenaLen s := by
  obtain ⟨q, h⟩ := replaceFirst_writes e s
  rw [h]
  rfl

theorem settleRoot_keepsInv {s : State} (h : s.Inv) : (settleRoot s).KeepsInv := by
  unfold settleRoot
  split
  · rename_i a q ha hq
    split
    · exact h.raises (by decide)
    · rename_i e he
      split
      · exact h.raises (by decide)
      · rename_i n hn
        have hlive : e.idx.toNat < arenaLen s := by
          simpa [arenaLen, ha] using (List.getElem?_eq_some_iff.1 hn).1
        split
        · refine Res.Meets.andThen (arenaAppend_keepsInv h ?_) ?_
          · exact nodeWf_of_children rfl hlive (.inl rfl)
          · rintro u ⟨hu, hpq, hlen⟩
            have hroot : (BitVec.ofNat 10 (arenaLen u - 1)).toNat < arenaLen u := by
              have := hu.arenaLen_le
              rw [BitVec.toNat_ofNat, Nat.mod_eq_of_lt (by omega)]
              omega
            have hfirst : (replaceFirst ⟨BitVec.ofNat 10 (arenaLen u - 1), e.freq⟩ u).Inv :=
              replaceFirst_keepsInv hu (hpq.trans hq) he rfl
            exact hfirst.set_root (hroot.trans_eq (arenaLen_replaceFirst _ u).symm)
        · exact h.set_root hlive
  · exact h.raises (by decide)
  · exact h.raises (by decide)

/-! The commands' bodies. -/

theorem ftCountBody_keepsInv {s : State} (h : s.Inv) : (ftCountBody s).KeepsInv := by
  refine Res.Meets.bind (countLoop_keepsInv _ h.srcRewind Counted.zero) ?_
  rintro p u ⟨hu, -, -, hpos⟩
  split
  · exact hu.raises (by decide)
  · rename_i hne
    obtain ⟨b, hb⟩ := hpos (Nat.pos_of_ne_zero hne)
    have hle := distinctCount_le p.1
    refine { hu with ft_wf := ?_ }
    rintro _ ⟨⟩
    exact ⟨distinctCount_pos hb, by rw [BitVec.toNat_ofNat]; exact Nat.mod_eq_of_lt (by omega)⟩

/-- 41_priority_queue.md R141: a capacity operand that is accepted. -/
theorem capOperand_some {cap : BitVec 16} {c : BitVec 9} (h : capOperand cap = some c) :
    1 ≤ c.toNat ∧ c.toNat ≤ Config.heapDepth := by
  unfold capOperand at h
  split at h
  · cases h
  · rename_i hr
    cases h
    rw [not_or] at hr
    have hlt : cap.toNat ≤ 256 := Nat.le_of_not_lt hr.2
    have hcap : (cap.setWidth 9).toNat = cap.toNat := by
      rw [BitVec.toNat_setWidth]
      exact Nat.mod_eq_of_lt (by omega)
    rw [hcap]
    exact ⟨Nat.pos_of_ne_zero hr.1, hlt⟩

theorem emptyQueue_wf {c : BitVec 9} (h : 1 ≤ c.toNat ∧ c.toNat ≤ Config.heapDepth) :
    QueueWf { cap := c, entries := [] } :=
  ⟨h.1, h.2, Nat.zero_le _, fun _ hi => absurd hi (Nat.not_lt_zero _)⟩

theorem pqInitBody_keepsInv (cap : BitVec 16) {s : State} (h : s.Inv) :
    (pqInitBody cap s).KeepsInv := by
  unfold pqInitBody
  split
  · exact h.raises (by decide)
  · rename_i hc
    refine h.set_queue ?_
    rintro _ ⟨⟩
    exact emptyQueue_wf (capOperand_some hc)

theorem pqInsertBody_keepsInv (idx : BitVec 16) (freq : Word32) {s : State} (h : s.Inv) :
    (pqInsertBody idx freq s).KeepsInv := by
  unfold pqInsertBody
  split
  · exact h.raises (by decide)
  · exact heapInsert_keepsInv _ h

theorem pqExtract2Body_keepsInv {s : State} (h : s.Inv) : (pqExtract2Body s).KeepsInv :=
  Res.Meets.bind (heapExtract2_keepsInv h) fun _ _ hu => { hu with }

/-- 42_tree_builder.md R161: while the leaves go into the queue the old root may point past the new
tree, so the queue alone is followed, and the whole invariant holds again once the root is
dropped. -/
theorem tbLeavesBody_keepsInv {s : State} (h : s.Inv) : (tbLeavesBody s).KeepsInv := by
  unfold tbLeavesBody
  split
  · exact h.raises (by decide)
  · rename_i ft hft
    obtain ⟨hpos, hd⟩ := h.ft_wf ft hft
    have hempty : QueueWf { cap := s.nDistinct, entries := [] } :=
      emptyQueue_wf (hd ▸ ⟨hpos, distinctCount_le ft⟩)
    refine Res.Meets.andThen ((insertLeaves_keepsQueue _ _ ?_).imp (fun _ _ ht => ht) ?_) ?_
    · rintro _ ⟨⟩
      exact hempty
    · rintro k _ ⟨hk, q, rfl⟩
      exact ⟨hk, h.src_pos_le, h.snk_unbound, h.snk_fits⟩
    · rintro _ ⟨hq, q, rfl⟩
      exact { h with
        arena_wf := by rintro _ ⟨⟩; exact leaves_arenaWf hd hpos
        queue_wf := hq
        root_wf := fun hr => by cases hr
        code_wf := by rintro _ ⟨⟩ }

theorem tbBuildBody_keepsInv {s : State} (h : s.Inv) : (tbBuildBody s).KeepsInv := by
  unfold tbBuildBody
  split
  · exact h.raises (by decide)
  · split
    · exact h.raises (by decide)
    · exact (buildLoop_keepsInv _ h).andThen fun u hu => settleRoot_keepsInv hu

theorem cgGenBody_keepsInv {s : State} (h : s.Inv) : (cgGenBody s).KeepsInv := by
  unfold cgGenBody
  split
  · exact h.raises (by decide)
  · rename_i a ha
    split
    · exact h.raises (by decide)
    · rename_i hroot
      split
      · rename_i nodes code hw
        obtain ⟨hmarks, hfit⟩ := walkLoop_done hw (Nat.zero_le _) codesFit_empty
        rw [unmarked_clearMarks] at hmarks
        have hlen : nodes.length = a.nodes.length := by
          simpa [unmarked] using congrArg List.length hmarks
        have harena := h.set_arena ((h.arena_wf a ha).of_unmarked hmarks)
          (by simp [arenaLen, ha, hlen])
        refine { harena with code_wf := ?_ }
        rintro _ ⟨⟩
        exact ⟨by simpa using hroot, hfit⟩
      · exact h.raises (by decide)
      · trivial

theorem bpPackBody_keepsInv {s : State} (h : s.Inv) : (bpPackBody s).KeepsInv := by
  unfold bpPackBody
  split
  · exact h.raises (by decide)
  · refine Res.Meets.bind (packLoop_keepsInv _ _ h.srcRewind 0 0) fun p u hu => ?_
    unfold putPartial
    split
    · exact snkPut_keepsInv hu _
    · exact hu

theorem buUnpackBody_keepsInv {s : State} (h : s.Inv) : (buUnpackBody s).KeepsInv := by
  unfold buUnpackBody
  split
  · exact h.raises (by decide)
  · exact unpackLoop_keepsInv _ _ _ _ h _ _

theorem serWriteBody_keepsInv {s : State} (h : s.Inv) : (serWriteBody s).KeepsInv := by
  unfold serWriteBody
  split
  · exact h.raises (by decide)
  · split
    · exact h.raises (by decide)
    · split
      · exact h.raises (by decide)
      · exact snkPutAll_keepsInv (h.set_treeSize _) _

theorem placeRecords_length (xs : List FinalNode) : (placeRecords xs).length = xs.length := by
  cases xs <;> simp [placeRecords]

/-- 45_serializer.md R219: what the check of the loaded tree finds. -/
theorem childrenInRange_iff {n : Nat} {nodes : List FinalNode} :
    childrenInRange n nodes = true ↔
      ∀ x ∈ nodes, childInRange n x.left = true ∧ childInRange n x.right = true := by
  simp [childrenInRange]

theorem serReadBody_keepsInv {s : State} (h : s.Inv) : (serReadBody s).KeepsInv := by
  refine Res.Meets.bind (getLE_keepsInv h.srcRewind 4) fun tc u hu => ?_
  refine Res.Meets.bind (getLE_keepsInv hu 2) fun ts v hv => ?_
  have hhead : State.Inv { v with
      totalChars := BitVec.ofNat 32 tc, treeSize := BitVec.ofNat 16 ts } := { hv with }
  dsimp only
  split
  · exact hhead.raises (by decide)
  · rename_i hmin
    split
    · exact hhead.raises (by decide)
    · rename_i hmax
      rw [not_or, Nat.not_lt, Nat.not_lt] at hmin
      refine Res.Meets.bind (readRecords_keepsInv hhead ts) ?_
      rintro xs w ⟨hw, hlen⟩
      split
      · rename_i hrange
        refine { hw with ftree_wf := ?_ }
        rintro _ ⟨⟩
        have hlen' := (placeRecords_length xs).trans hlen
        exact ⟨hmin.2.trans_eq hlen'.symm, hlen'.trans_le (Nat.le_of_not_lt hmax),
          hlen'.symm ▸ childrenInRange_iff.1 hrange⟩
      · exact hw.raises (by decide)

theorem releaseBody_keepsInv {s : State} (h : s.Inv) : (releaseBody s).KeepsInv :=
  h.releaseAll

theorem compressBody_keepsInv {s : State} (h : s.Inv) : (compressBody s).KeepsInv :=
  ((((((ftCountBody_keepsInv h.releaseAll.snkTruncate).andThen
    fun _ => tbLeavesBody_keepsInv).andThen fun _ => tbBuildBody_keepsInv).andThen
    fun _ => cgGenBody_keepsInv).andThen fun _ => serWriteBody_keepsInv).andThen
    fun _ => bpPackBody_keepsInv).andThen fun _ => releaseBody_keepsInv

theorem decompressBody_keepsInv {s : State} (h : s.Inv) : (decompressBody s).KeepsInv :=
  ((serReadBody_keepsInv h.releaseAll.snkTruncate).andThen
    fun _ => buUnpackBody_keepsInv).andThen fun _ => releaseBody_keepsInv

theorem commandBody_keepsInv (i : Instr) {s : State} (h : s.Inv) : (commandBody i s).KeepsInv := by
  cases i with
  | compress => exact compressBody_keepsInv h
  | decompress => exact decompressBody_keepsInv h
  | ftCount => exact ftCountBody_keepsInv h
  | pqInit cap => exact pqInitBody_keepsInv cap h
  | pqInsert idx freq => exact pqInsertBody_keepsInv idx freq h
  | pqExtract2 => exact pqExtract2Body_keepsInv h
  | tbLeaves => exact tbLeavesBody_keepsInv h
  | tbBuild => exact tbBuildBody_keepsInv h
  | cgGen => exact cgGenBody_keepsInv h
  | bpPack => exact bpPackBody_keepsInv h
  | buUnpack => exact buUnpackBody_keepsInv h
  | serWrite => exact serWriteBody_keepsInv h
  | serRead => exact serReadBody_keepsInv h
  | release => exact releaseBody_keepsInv h

/-! The step. -/

theorem exec_keepsInv {i : Instr} {s t : State} (h : s.Inv) (he : exec i s = .next t) : t.Inv := by
  rcases exec_of_meets he (commandBody_keepsInv i h) with ⟨u, hu, rfl⟩ | ⟨k, u, hu, rfl⟩
  · exact hu.complete
  · exact hu.failureEntry

/-- The invariant looks at neither the host's list nor the counter of the free values. -/
theorem State.Inv.popped {s : State} (h : s.Inv) (rest : List HostAction) (c : Nat) :
    State.Inv { s with hostq := rest, freeCtr := c } :=
  { h with }

/-- The invariant does not look at the reply. -/
theorem State.Inv.answer {s : State} (h : s.Inv) (r : HostReply) : (answer r s).Inv :=
  { h with }

theorem issueWord_keepsInv {w : CmdWord} {s t : State} (h : s.Inv)
    (hs : issueWord w s = .next t) : t.Inv := by
  obtain ⟨u, rfl, ⟨i, -, he⟩ | ⟨k, hd, rfl⟩⟩ := issueWord_eq_next hs
  · exact (exec_keepsInv h he).answer _
  · have hk : k ≠ .unknownError := by
      rcases decode_reject hd with rfl | rfl <;> decide
    exact (h.raises hk).failureEntry.answer _

theorem act_keepsInv {a : HostAction} {s t : State} (h : s.Inv) (ha : act a s = .next t) :
    t.Inv := by
  cases a with
  | command w => exact issueWord_keepsInv h ha
  | bindSource bytes failAt =>
    cases ha
    exact { h with src_pos_le := Nat.zero_le _ }
  | bindSink failAt =>
    cases ha
    exact { h with snk_unbound := fun _ => rfl, snk_fits := allows_zero _ }
  | unbind =>
    cases ha
    exact { h with
      src_pos_le := Nat.zero_le _, snk_unbound := fun _ => rfl, snk_fits := allows_zero _ }
  | readSink =>
    cases ha
    exact h.answer _
  | readReg n =>
    cases ha
    exact h.answer _
  | reset =>
    cases ha
    exact { resetMeetsInvariant with }

/-- Settles O10: the invariant is kept by every host action, a command keeping it in each piece of
its body. -/
theorem stepKeepsInvariant : Obligations.StepKeepsInvariant := by
  intro s t h hs
  rcases step_eq_next hs with rfl | ⟨a, rest, -, ha⟩
  · exact h
  · exact act_keepsInv (h.popped rest _) ha

end Sys2Proof.Machine
end

section
/-! PROOFS. `BU_UNPACK` and the free values (10_state.md R43, 45_serializer.md R219; log 6): O43. -/

namespace Sys2Proof.Machine

/-- Two readings of the tree that agree on its `n` nodes, in which no node has a child outside. -/
structure SameTree (n : Nat) (f g : Nat → FinalNode) : Prop where
  agree : ∀ i < n, f i = g i
  left : ∀ i < n, childInRange n (f i).left = true
  right : ∀ i < n, childInRange n (f i).right = true

/-- R219: a child in range that is not the sentinel is a node's index. -/
theorem lt_of_childInRange {n : Nat} {c : ChildIdx} (h : childInRange n c = true)
    (hc : c ≠ Config.noChild) : c.toNat < n := by
  simp only [childInRange, Bool.or_eq_true, beq_iff_eq, Bool.and_eq_true, decide_eq_true_eq] at h
  have hlt := c.isLt
  have hne : c.toNat ≠ 65535 := fun he => hc (BitVec.eq_of_toNat_eq he)
  rw [BitVec.toInt_eq_toNat_cond] at h
  split at h <;> omega

section
variable {n : Nat} {f g : Nat → FinalNode} (hfg : SameTree n f g)
include hfg

/-- R196: a walk from a node of the tree reads no entry outside it and ends at a node of it. -/
theorem walkBits_sameTree (rt total : Nat) (bits : List Bool) (cur emitted : Nat) (s : State)
    (hrt : rt < n) (hcur : cur < n) :
    walkBits f rt total bits cur emitted s = walkBits g rt total bits cur emitted s ∧
      (walkBits f rt total bits cur emitted s).Meets (fun p _ => p.1 < n) (fun _ _ => True) := by
  induction bits generalizing cur emitted s with
  | nil => exact ⟨rfl, hcur⟩
  | cons bit bits ih =>
    unfold walkBits
    dsimp only
    rw [← hfg.agree cur hcur]
    have hrange : childInRange n (if bit = true then (f cur).right else (f cur).left) = true := by
      split
      · exact hfg.right cur hcur
      · exact hfg.left cur hcur
    generalize (if bit = true then (f cur).right else (f cur).left) = nxt at hrange
    by_cases hno : nxt = Config.noChild
    · rw [if_pos hno, if_pos hno]
      exact ⟨rfl, trivial⟩
    · have hnxt := lt_of_childInRange hrange hno
      rw [if_neg hno, if_neg hno, ← hfg.agree _ hnxt]
      split
      · rcases snkPut_cases (f nxt.toNat).sym s with ⟨-, he⟩ | ⟨-, he⟩ <;> rw [he]
        · rw [Res.bind_ok, Res.bind_ok]
          split
          · exact ⟨rfl, hrt⟩
          · exact ih rt (emitted + 1) _ hrt
        · exact ⟨rfl, trivial⟩
      · exact ih _ _ _ hnxt

theorem unpackLoop_sameTree (rt total k cur emitted : Nat) (s : State) (hrt : rt < n)
    (hcur : cur < n) :
    unpackLoop f rt total k cur emitted s = unpackLoop g rt total k cur emitted s := by
  induction k generalizing cur emitted s with
  | zero => rfl
  | succ k ih =>
    unfold unpackLoop
    split
    · cases hs : srcNext s with
      | err => rfl
      | eof => rfl
      | byte b u =>
        obtain ⟨hsame, hend⟩ :=
          walkBits_sameTree hfg rt total (bitsMsbFirst b) cur emitted u hrt hcur
        dsimp only
        rw [← hsame]
        cases hw : walkBits f rt total (bitsMsbFirst b) cur emitted u with
        | ok p v =>
          rw [hw] at hend
          exact ih p.1 p.2 v hend
        | raised e v => rfl
        | stuck r => rfl
    · rfl

end

/-- The result with the counter of the free values replaced in the state it ends in. -/
def Res.withCtr {α : Type} (c : Nat) : Res α → Res α
  | .ok a s => .ok a { s with freeCtr := c }
  | .raised k s => .raised k { s with freeCtr := c }
  | .stuck r => .stuck r

/-- Sequencing commutes with replacing the counter where both pieces do. -/
theorem Res.bind_withCtr {α β : Type} {c : Nat} {m m' : Res α} {f f' : α → State → Res β}
    (hm : m' = m.withCtr c) (hf : ∀ a s, f' a { s with freeCtr := c } = (f a s).withCtr c) :
    m'.bind f' = (m.bind f).withCtr c := by
  subst hm
  cases m with
  | ok a s => exact hf a s
  | raised k s => rfl
  | stuck r => rfl

theorem snkPut_withCtr (b : Byte) (c : Nat) (s : State) :
    snkPut b { s with freeCtr := c } = (snkPut b s).withCtr c := by
  unfold snkPut
  split
  · rfl
  · split <;> rfl

theorem walkBits_withCtr (f : Nat → FinalNode) (rt total : Nat) (bits : List Bool)
    (cur emitted c : Nat) (s : State) :
    walkBits f rt total bits cur emitted { s with freeCtr := c } =
      (walkBits f rt total bits cur emitted s).withCtr c := by
  induction bits generalizing cur emitted s with
  | nil => rfl
  | cons bit bits ih =>
    unfold walkBits
    dsimp only
    generalize (if bit = true then (f cur).right else (f cur).left) = nxt
    split
    · rfl
    · split
      · refine Res.bind_withCtr (snkPut_withCtr _ c s) fun _ u => ?_
        split
        · rfl
        · exact ih _ _ u
      · exact ih _ _ s

/-- What `SrcNext` returns, with the counter of the free values replaced. -/
def SrcRead.withCtr (c : Nat) : SrcRead → SrcRead
  | .byte b s => .byte b { s with freeCtr := c }
  | .eof => .eof
  | .err => .err

theorem srcNext_withCtr (c : Nat) (s : State) :
    srcNext { s with freeCtr := c } = (srcNext s).withCtr c := by
  unfold srcNext
  dsimp only
  split
  · rfl
  · split
    · rfl
    · cases s.src[s.srcPos]? <;> rfl

theorem unpackLoop_withCtr (f : Nat → FinalNode) (rt total k cur emitted c : Nat) (s : State) :
    unpackLoop f rt total k cur emitted { s with freeCtr := c } =
      (unpackLoop f rt total k cur emitted s).withCtr c := by
  induction k generalizing cur emitted s with
  | zero => rfl
  | succ k ih =>
    unfold unpackLoop
    split
    · rw [srcNext_withCtr]
      cases srcNext s with
      | err => rfl
      | eof => rfl
      | byte b u =>
        exact Res.bind_withCtr (walkBits_withCtr f rt total _ cur emitted c u)
          fun p v => ih p.1 p.2 v
    · rfl

theorem failureEntry_withCtr (k : ErrorKind) (c : Nat) (s : State) :
    failureEntry k { s with freeCtr := c } = { failureEntry k s with freeCtr := c } := by
  unfold failureEntry snkTruncate releaseAll
  dsimp only
  split <;> rfl

/-- The end of a command carries the counter along. -/
theorem finish_withCtr {m : Res Unit} {t : State} (c : Nat) (h : finish m = .next t) :
    finish (m.withCtr c) = .next { t with freeCtr := c } := by
  rcases finish_eq_next.1 h with ⟨s, rfl, rfl⟩ | ⟨k, s, rfl, rfl⟩
  · rfl
  · exact congrArg Host.Outcome.next (failureEntry_withCtr k c s)

/-- On a tree as `SER_READ` leaves it, two counters give readings that agree on the tree. -/
theorem ftreeNode_sameTree {nodes : List FinalNode} (h : FtreeWf nodes) (c d : Nat) :
    SameTree nodes.length (ftreeNode nodes nodes.length c) (ftreeNode nodes nodes.length d) := by
  obtain ⟨-, -, hrange⟩ := h
  have read (c i : Nat) (hi : i < nodes.length) : ftreeNode nodes nodes.length c i = nodes[i] := by
    simp [ftreeNode, hi]
  refine ⟨fun i hi => ?_, fun i hi => ?_, fun i hi => ?_⟩
  · rw [read c i hi, read d i hi]
  · rw [read c i hi]
    exact (hrange _ (List.getElem_mem hi)).1
  · rw [read c i hi]
    exact (hrange _ (List.getElem_mem hi)).2

theorem buUnpackBody_of_ftree {s : State} {nodes : List FinalNode} (h : s.ftree = some nodes) :
    buUnpackBody s =
      unpackLoop (ftreeNode nodes s.treeSize.toNat s.freeCtr) (s.treeSize.toNat - 1)
        s.totalChars.toNat (s.src.length + 1) (s.treeSize.toNat - 1) 0 s := by
  simp only [buUnpackBody, h]

/-- Settles O43: the walk stays inside the tree, where every reading agrees, and nothing else reads
the counter. -/
theorem buUnpackMeetsNoFreeValue : Obligations.BuUnpackMeetsNoFreeValue := by
  intro s t nodes c hft hwf hsize h
  have hroot : nodes.length - 1 < nodes.length := by
    have hmin : 2 ≤ nodes.length := hwf.1
    omega
  have hbody : buUnpackBody { s with freeCtr := c } = (buUnpackBody s).withCtr c := by
    rw [buUnpackBody_of_ftree hft,
      buUnpackBody_of_ftree (s := { s with freeCtr := c }) (nodes := nodes) hft, hsize]
    dsimp only
    rw [unpackLoop_withCtr _ _ _ _ _ _ c s]
    exact congrArg (Res.withCtr c) (unpackLoop_sameTree (ftreeNode_sameTree hwf c s.freeCtr)
      _ _ _ _ _ s hroot hroot)
  rw [exec_eq_finish] at h ⊢
  rw [commandBody, hbody]
  exact finish_withCtr c h

end Sys2Proof.Machine
end

section
/-! PROOFS. The storage (20_memory.md): what the host's own actions do, and what every command
leaves of the host's side, the structures and the streams (O6, O14, O17, O18). -/

namespace Sys2Proof.Machine

/-! The host's actions (20_memory.md R67). -/

/-- A step takes the action at the head of the host's list. -/
theorem step_of_hostq_cons {s : State} {a : HostAction} {rest : List HostAction}
    (h : s.hostq = a :: rest) :
    step s = act a { s with hostq := rest, freeCtr := s.freeCtr + 1 } := by
  simp [step, popAction_cons h]

theorem step_of_hostq_nil {s : State} (h : s.hostq = []) : step s = .next s := by
  simp [step, popAction, h, wait]

/-- No host register shows the host's list or the free-value counter. -/
theorem hostReg_popped (s : State) (rest : List HostAction) (c n : Nat) :
    hostReg { s with hostq := rest, freeCtr := c } n = hostReg s n := rfl

/-- Settles O6: each action but a command and reset is answered with the state written out. -/
theorem hostActionsHaveTheirEffect : Obligations.HostActionsHaveTheirEffect := by
  intro s rest
  refine ⟨fun _ _ => step_of_hostq_cons, fun _ => step_of_hostq_cons, step_of_hostq_cons,
    step_of_hostq_cons, fun n h => ?_, step_of_hostq_nil⟩
  rw [step_of_hostq_cons h, act, hostReg_popped]
  rfl

/-! What a command leaves as it was. -/

/-- What only the host writes: the source's bytes, the bindings and failure points (R61, R64), and
the model's own list, reply and counter (logs 1, 3, 6). -/
def hostSide (s : State) : (Bool × List Byte × Option Nat) × (Bool × Option Nat) ×
    List HostAction × HostReply × Nat :=
  ((s.srcBound, s.src, s.srcFailAt), (s.snkBound, s.snkFailAt), s.hostq, s.reply, s.freeCtr)

@[simp] theorem hostSide_complete (s : State) : hostSide (complete s) = hostSide s := rfl

@[simp] theorem hostSide_releaseAll (s : State) : hostSide (releaseAll s) = hostSide s := rfl

@[simp] theorem hostSide_snkTruncate (s : State) : hostSide (snkTruncate s) = hostSide s := by
  simp [hostSide]

@[simp] theorem hostSide_failureEntry (k : ErrorKind) (s : State) :
    hostSide (failureEntry k s) = hostSide s := by
  simp [hostSide]

/-- The structures of `s` that command `i` is not listed as writing, setting or clearing (R68,
10_state.md R25) stand unchanged in `t`. -/
def StructuresKept (i : Instr) (s t : State) : Prop :=
  (i ≠ .ftCount → t.ft = s.ft) ∧
  (writesArena i = false → t.arena = s.arena) ∧
  (writesQueue i = false → t.pq = s.pq) ∧
  (i ≠ .tbLeaves → i ≠ .tbBuild → t.rootValid = s.rootValid) ∧
  (i ≠ .tbLeaves → i ≠ .tbBuild → i ≠ .cgGen → t.code = s.code) ∧
  (i ≠ .serRead → t.ftree = s.ftree)

/-- What the body of command `i`, not a composite, started in `s` and ended in `t`, leaves. -/
structure StorageKept (i : Instr) (s t : State) : Prop where
  host : hostSide t = hostSide s
  structures : releases i = false → StructuresKept i s t
  position : readsSource i = false → t.srcPos = s.srcPos
  sink : appendsToSink i = false → t.snk = s.snk

/-- Each body but the composites' writes only fields that the storage's tables list for it. -/
theorem component_storage (i : Instr) (s : State) (hc : i ≠ .compress) (hd : i ≠ .decompress) :
    (commandBody i s).Leaves (StorageKept i s) := by
  cases i with
  | compress => exact absurd rfl hc
  | decompress => exact absurd rfl hd
  | ftCount =>
    refine (ftCountBody_writes s).imp ?_
    rintro _ ⟨_, _, _, _, rfl⟩
    exact ⟨rfl, by simp [StructuresKept], nofun, fun _ => rfl⟩
  | pqInit cap =>
    refine (pqInitBody_writes cap s).imp ?_
    rintro _ ⟨_, rfl⟩
    exact ⟨rfl, by simp [StructuresKept, writesQueue], fun _ => rfl, fun _ => rfl⟩
  | pqInsert idx freq =>
    refine (pqInsertBody_writes idx freq s).imp ?_
    rintro _ ⟨_, rfl⟩
    exact ⟨rfl, by simp [StructuresKept, writesQueue], fun _ => rfl, fun _ => rfl⟩
  | pqExtract2 =>
    rcases pqExtract2Body_cases s with ⟨k, h⟩ | ⟨_, _, _, _, _, -, -, -, h⟩ <;>
      rw [commandBody, h] <;>
      exact ⟨rfl, by simp [StructuresKept, writesQueue], fun _ => rfl, fun _ => rfl⟩
  | tbLeaves =>
    refine (tbLeavesBody_writes s).imp ?_
    rintro _ ⟨_, _, _, _, rfl⟩
    exact ⟨rfl, by simp [StructuresKept, writesArena, writesQueue], fun _ => rfl, fun _ => rfl⟩
  | tbBuild =>
    refine (tbBuildBody_writes s).imp ?_
    rintro _ ⟨_, _, _, _, _, rfl⟩
    exact ⟨rfl, by simp [StructuresKept, writesArena, writesQueue], fun _ => rfl, fun _ => rfl⟩
  | cgGen =>
    refine (cgGenBody_writes s).imp ?_
    rintro _ ⟨_, _, rfl⟩
    exact ⟨rfl, by simp [StructuresKept, writesArena], fun _ => rfl, fun _ => rfl⟩
  | bpPack =>
    refine (bpPackBody_writes s).imp ?_
    rintro _ ⟨_, _, rfl⟩
    exact ⟨rfl, by simp [StructuresKept], nofun, nofun⟩
  | buUnpack =>
    refine (buUnpackBody_writes s).imp ?_
    rintro _ ⟨_, _, rfl⟩
    exact ⟨rfl, by simp [StructuresKept], nofun, nofun⟩
  | serWrite =>
    refine (serWriteBody_writes s).imp ?_
    rintro _ ⟨_, _, rfl⟩
    exact ⟨rfl, by simp [StructuresKept], fun _ => rfl, nofun⟩
  | serRead =>
    refine (serReadBody_writes s).imp ?_
    rintro _ ⟨_, _, _, _, rfl⟩
    exact ⟨rfl, by simp [StructuresKept], nofun, fun _ => rfl⟩
  | release => exact ⟨rfl, nofun, fun _ => rfl, fun _ => rfl⟩

/-- A command that answers `OK` has completed, from a state its body leaves. -/
theorem exec_ok_of_leaves {i : Instr} {s t : State} {R : State → Prop} (h : exec i s = .next t)
    (hr : t.result = .ok) (hb : (commandBody i s).Leaves R) : ∃ u, R u ∧ t = complete u := by
  rcases exec_of_meets h hb with hu | ⟨k, u, -, rfl⟩
  · exact hu
  · simp at hr

/-! The host's side (R61, R64). -/

/-- What the truncation and release at the start of a composite and every stage keep, every command
keeps. -/
theorem commandBody_keeps {R : State → Prop} (i : Instr) {s : State} (hs : R s)
    (hstart : R (snkTruncate (releaseAll s)))
    (hstage : ∀ j u, j ≠ .compress → j ≠ .decompress → R u → (commandBody j u).Leaves R) :
    (commandBody i s).Leaves R := by
  have start : (Res.ok () (snkTruncate (releaseAll s))).Leaves R := hstart
  have stage (j : Instr) (h : j ≠ .compress ∧ j ≠ .decompress) {m : Res Unit} (hm : m.Leaves R) :
      (m.andThen (commandBody j)).Leaves R :=
    hm.andThen fun u => hstage j u h.1 h.2
  cases i with
  | compress =>
    exact stage .release (by decide) <| stage .bpPack (by decide) <| stage .serWrite (by decide) <|
      stage .cgGen (by decide) <| stage .tbBuild (by decide) <| stage .tbLeaves (by decide) <|
      stage .ftCount (by decide) start
  | decompress =>
    exact stage .release (by decide) <| stage .buUnpack (by decide) <|
      stage .serRead (by decide) start
  | _ => exact hstage _ s nofun nofun hs

theorem commandBody_hostSide (i : Instr) (s : State) :
    (commandBody i s).Leaves fun t => hostSide t = hostSide s :=
  commandBody_keeps i rfl (by simp) fun j u hc hd hu =>
    (component_storage j u hc hd).imp fun _ ht => ht.host.trans hu

/-- Settles O14: no body and neither end of a command writes the host's side, and both ends set
`done`. -/
theorem commandsKeepTheHostsSide : Obligations.CommandsKeepTheHostsSide := by
  intro i s t h
  have kept : hostSide t = hostSide s :=
    exec_of_leaves h (commandBody_hostSide i s) (by simp) (by simp)
  have hdone : t.done = true := by
    rcases exec_of_meets h (commandBody_hostSide i s) with ⟨u, -, rfl⟩ | ⟨k, u, -, rfl⟩
    · exact complete_done u
    · exact failureEntry_done k u
  simpa [hostSide, hdone, and_assoc] using kept

/-! The structures (R68). -/

/-- Settles O17: where a component command succeeds, the structures are those its body leaves. -/
theorem structuresKeptByOtherCommands : Obligations.StructuresKeptByOtherCommands := by
  intro i s t h hr hi
  obtain ⟨u, hu, rfl⟩ := exec_ok_of_leaves h hr
    (component_storage i s (by rintro rfl; cases hi) (by rintro rfl; cases hi))
  exact hu.structures hi

/-! The streams (R62, R65). -/

theorem snkPut_appends (b : Byte) (s : State) : (snkPut b s).Leaves fun t => s.snk <+: t.snk := by
  rcases snkPut_cases b s with ⟨-, h⟩ | ⟨-, h⟩ <;> simp [h]

theorem putPartial_appends (acc : Byte) (n : Nat) (s : State) :
    (putPartial acc n s).Leaves fun t => s.snk <+: t.snk := by
  unfold putPartial
  split
  · exact snkPut_appends _ s
  · exact List.prefix_rfl

theorem bpPackBody_appends (s : State) : (bpPackBody s).Leaves fun t => s.snk <+: t.snk := by
  unfold bpPackBody
  split
  · exact List.prefix_rfl
  · rename_i code _
    refine Res.Leaves.bind (R := fun t => s.snk <+: t.snk) ?_
      fun p u hu => (putPartial_appends p.1 p.2 u).imp fun _ => hu.trans
    rcases packLoop_cases code (s.src.length + 1) 0 0 (srcRewind s) (by simp) with
      ⟨p, pos, more, h⟩ | ⟨k, pos, more, -, h⟩ <;> rw [h] <;>
      exact List.prefix_append s.snk more

theorem buUnpackBody_appends (s : State) : (buUnpackBody s).Leaves fun t => s.snk <+: t.snk := by
  cases hf : s.ftree with
  | none => simp [buUnpackBody, hf]
  | some nodes =>
    rw [buUnpackBody_of_ftree hf]
    rcases unpackLoop_cases (ftreeNode nodes s.treeSize.toNat s.freeCtr) (s.treeSize.toNat - 1)
      s.totalChars.toNat (s.src.length + 1) (s.treeSize.toNat - 1) 0 s (by omega) with
      ⟨pos, more, h⟩ | ⟨k, pos, more, -, h⟩ <;> simp [h]

theorem serWriteBody_appends (s : State) : (serWriteBody s).Leaves fun t => s.snk <+: t.snk := by
  unfold serWriteBody
  split
  · exact List.prefix_rfl
  · rename_i a _
    split
    · exact List.prefix_rfl
    · split
      · exact List.prefix_rfl
      · rcases snkPutAll_cases (headerAndTree s.totalChars (BitVec.ofNat 16 a.nodes.length)
            (a.nodes.map finalOf)) { s with treeSize := BitVec.ofNat 16 a.nodes.length } with
          h | ⟨more, h⟩ <;> simp [h]

/-- R65: the commands that append to the sink keep in front what it held. -/
theorem commandBody_appends (i : Instr) (s : State) (hi : appendsToSink i = true) :
    (commandBody i s).Leaves fun t => s.snk <+: t.snk := by
  cases i with
  | bpPack => exact bpPackBody_appends s
  | buUnpack => exact buUnpackBody_appends s
  | serWrite => exact serWriteBody_appends s
  | _ => cases hi

/-- Settles O18: neither end of a command moves the source position, and completion leaves the sink
as the body left it. -/
theorem streamsMovedOnlyByTheirCommands : Obligations.StreamsMovedOnlyByTheirCommands := by
  intro i s t h
  refine ⟨fun hi => ?_, fun hr hc hd hi => ?_, fun hr hi => ?_⟩
  · have body := component_storage i s (by rintro rfl; cases hi) (by rintro rfl; cases hi)
    exact exec_of_leaves h (body.imp fun u hu => hu.position hi) (by simp) (by simp)
  · obtain ⟨u, hu, rfl⟩ := exec_ok_of_leaves h hr (component_storage i s hc hd)
    exact hu.sink hi
  · obtain ⟨u, ⟨more, hu⟩, rfl⟩ := exec_ok_of_leaves h hr (commandBody_appends i s hi)
    exact ⟨more, hu.symm⟩

end Sys2Proof.Machine
end

section
/-! PROOFS. The decoder and the encoder (30_encoding.md): the fields of a word, the rows of the
command table, and what a step makes of a word (O1 to O5). -/

namespace Sys2Proof

open Machine

/-! The fields of a word (R90). -/

/-- Each field is cut out of the joined word where it was put. -/
@[simp] theorem fieldsOf_packFields (f : Fields) : fieldsOf (packFields f) = f := by
  obtain ⟨op, rsvd, a, b⟩ := f
  have hop : (op ++ rsvd ++ a ++ b).extractLsb' 56 8 = op := by
    rw [BitVec.extractLsb'_append_eq_of_le (by decide),
      BitVec.extractLsb'_append_eq_of_le (by decide)]
    exact BitVec.extractLsb'_append_eq_left
  have hrsvd : (op ++ rsvd ++ a ++ b).extractLsb' 48 8 = rsvd := by
    rw [BitVec.extractLsb'_append_eq_of_le (by decide),
      BitVec.extractLsb'_append_eq_of_le (by decide)]
    exact BitVec.extractLsb'_append_eq_right
  have ha : (op ++ rsvd ++ a ++ b).extractLsb' 32 16 = a := by
    rw [BitVec.extractLsb'_append_eq_of_le (by decide)]
    exact BitVec.extractLsb'_append_eq_right
  have hb : (op ++ rsvd ++ a ++ b).extractLsb' 0 32 = b := BitVec.extractLsb'_append_eq_right
  simp only [fieldsOf, packFields, hop, hrsvd, ha, hb]

/-- The four fields are the whole word, joined from the highest down. -/
@[simp] theorem packFields_fieldsOf (w : CmdWord) : packFields (fieldsOf w) = w := by
  have high : w.extractLsb' 56 8 ++ w.extractLsb' 48 8 = w.extractLsb' 48 16 :=
    BitVec.extractLsb'_append_extractLsb'_eq_extractLsb' rfl
  have upper : w.extractLsb' 48 16 ++ w.extractLsb' 32 16 = w.extractLsb' 32 32 :=
    BitVec.extractLsb'_append_extractLsb'_eq_extractLsb' rfl
  have whole : w.extractLsb' 32 32 ++ w.extractLsb' 0 32 = w.extractLsb' 0 64 :=
    BitVec.extractLsb'_append_extractLsb'_eq_extractLsb' rfl
  simp only [packFields, fieldsOf]
  rw [high, upper, whole, BitVec.extractLsb'_eq_self]

theorem eq_packFields_iff {w : CmdWord} {f : Fields} : w = packFields f ↔ fieldsOf w = f :=
  ⟨fun h => by rw [h, fieldsOf_packFields], fun h => by rw [← h, packFields_fieldsOf]⟩

theorem fieldsOf_and (w m : CmdWord) :
    fieldsOf (w &&& m) =
      ⟨(fieldsOf w).opcode &&& (fieldsOf m).opcode, (fieldsOf w).rsvd &&& (fieldsOf m).rsvd,
        (fieldsOf w).arg0 &&& (fieldsOf m).arg0, (fieldsOf w).arg1 &&& (fieldsOf m).arg1⟩ := by
  simp only [fieldsOf, BitVec.extractLsb'_and]

/-! Encoding, then decoding (R93, R97). -/

/-- A command's fields find its own row and pass the checks of that row. -/
theorem decodeFields_encodeFields (i : Instr) : decodeFields (encodeFields i) = .ok i := by
  cases i <;> rfl

@[simp] theorem decode_encode (i : Instr) : decode (encode i) = .ok i := by
  rw [decode, encode, fieldsOf_packFields, decodeFields_encodeFields]

@[simp] theorem tableWord_toNat (w : CmdWord) : tableWord 64 w.toNat = w := by
  rw [tableWord, Nat.mod_eq_of_lt w.isLt, BitVec.ofNat_toNat, BitVec.setWidth_eq]

/-- Settles O2: packing a command's fields loses none of them, and they lead to its own row. -/
theorem encodedCommandsDecodeBack : Obligations.EncodedCommandsDecodeBack :=
  fun i => ⟨decode_encode i, by simp [decodeTableWord]⟩

/-- Settles O3: the decoder evaluated on each word. -/
theorem specWordsDecode : Obligations.SpecWordsDecode := by
  unfold Obligations.SpecWordsDecode
  decide

/-! The rows of the command table (R92). -/

/-- R94: `rsvd` and the operands that the row's command does not use are 0. -/
def Fields.UsesOnly (f : Fields) (r : CommandRow) : Prop :=
  f.rsvd = 0#8 ∧ (r.usesArg0 = false → f.arg0 = 0#16) ∧ (r.usesArg1 = false → f.arg1 = 0#32)

/-- The bits that the words of a row's command have in common: all but those of its operands. -/
def CommandRow.maskFields (r : CommandRow) : Fields :=
  ⟨BitVec.allOnes 8, BitVec.allOnes 8, if r.usesArg0 then 0 else BitVec.allOnes 16,
    if r.usesArg1 then 0 else BitVec.allOnes 32⟩

/-- The match and mask pair of a row. -/
def CommandRow.legalPair (r : CommandRow) : CmdWord × CmdWord :=
  (packFields ⟨r.opcode, 0, 0, 0⟩, packFields r.maskFields)

/-- The match and mask columns of the opcode table are those of R92's rows. -/
theorem legalRows_eq_map : legalRows = commandTable.map CommandRow.legalPair := by decide

theorem assignedOpcodes_eq_map : assignedOpcodes = commandTable.map CommandRow.opcode := rfl

/-- R94's lists of the opcodes that use an operand agree with the rows. -/
theorem usesArgs_of_mem : ∀ r ∈ commandTable,
    opcodesUsingArg0.contains r.opcode = r.usesArg0 ∧
      opcodesUsingArg1.contains r.opcode = r.usesArg1 := by
  simp [commandTable, opcodesUsingArg0, opcodesUsingArg1]

/-- R97: the fields of the command that a row builds. -/
theorem encodeFields_build : ∀ r ∈ commandTable, ∀ (a : BitVec 16) (b : BitVec 32),
    encodeFields (r.build a b) =
      ⟨r.opcode, 0#8, if r.usesArg0 then a else 0#16, if r.usesArg1 then b else 0#32⟩ := by
  simp [commandTable, encodeFields]

theorem encodeFields_build_of_usesOnly {f : Fields} {r : CommandRow} (hr : r ∈ commandTable)
    (ho : r.opcode = f.opcode) (h : f.UsesOnly r) :
    encodeFields (r.build f.arg0 f.arg1) = f := by
  obtain ⟨hrsvd, h0, h1⟩ := h
  have harg0 : (if r.usesArg0 then f.arg0 else 0#16) = f.arg0 :=
    ite_eq_left_iff.2 fun hu => (h0 (by simpa using hu)).symm
  have harg1 : (if r.usesArg1 then f.arg1 else 0#32) = f.arg1 :=
    ite_eq_left_iff.2 fun hu => (h1 (by simpa using hu)).symm
  rw [encodeFields_build r hr, harg0, harg1, ho, ← hrsvd]

/-- The row that decodes an assigned opcode. -/
theorem find_row_of_assigned {op : BitVec 8} (h : op ∈ assignedOpcodes) :
    ∃ r ∈ commandTable, r.opcode = op ∧
      commandTable.find? (fun r => r.opcode == op) = some r := by
  obtain ⟨q, hq, rfl⟩ := List.mem_map.1 (assignedOpcodes_eq_map ▸ h)
  cases hf : commandTable.find? (fun r => r.opcode == q.opcode) with
  | none => simpa using List.find?_eq_none.1 hf q hq
  | some r => exact ⟨r, List.mem_of_find?_eq_some hf, by simpa using List.find?_some hf, rfl⟩

theorem find_row_of_unassigned {op : BitVec 8} (h : op ∉ assignedOpcodes) :
    commandTable.find? (fun r => r.opcode == op) = none := by
  refine List.find?_eq_none.2 fun r hr he => h ?_
  rw [assignedOpcodes_eq_map]
  exact List.mem_map.2 ⟨r, hr, by simpa using he⟩

/-! The legal words (R94), by the fields and by the match and mask pairs. -/

theorem opcode_mem_of_wf {f : Fields} (h : f.wf = true) : f.opcode ∈ assignedOpcodes := by
  simp only [Fields.wf, Bool.and_eq_true, List.contains_iff_mem] at h
  exact h.1.1.1

/-- With the opcode of a row, the checks of R94 are the row's. -/
theorem wf_iff_usesOnly {f : Fields} {r : CommandRow} (hr : r ∈ commandTable)
    (ho : r.opcode = f.opcode) : f.wf = true ↔ f.UsesOnly r := by
  have hop : f.opcode ∈ assignedOpcodes := by
    rw [assignedOpcodes_eq_map, ← ho]
    exact List.mem_map_of_mem hr
  obtain ⟨h0, h1⟩ := usesArgs_of_mem r hr
  rw [ho] at h0 h1
  rw [Fields.wf, h0, h1, Fields.UsesOnly]
  cases r.usesArg0 <;> cases r.usesArg1 <;> simp [hop, and_assoc]

/-- A word meets a row's match and mask pair when it has the row's opcode and passes its checks. -/
theorem and_legalPair_eq_iff (w : CmdWord) (r : CommandRow) :
    w &&& r.legalPair.2 = r.legalPair.1 ↔
      r.opcode = (fieldsOf w).opcode ∧ (fieldsOf w).UsesOnly r := by
  rw [CommandRow.legalPair, eq_packFields_iff, fieldsOf_and, fieldsOf_packFields, Fields.UsesOnly,
    CommandRow.maskFields, Fields.mk.injEq]
  cases r.usesArg0 <;> cases r.usesArg1 <;> simp [-BitVec.reduceAllOnes, eq_comm]

theorem wordLegal_iff (w : CmdWord) : wordLegal w = true ↔ (fieldsOf w).wf = true := by
  simp only [wordLegal, legalRows_eq_map, List.any_map, List.any_eq_true, Function.comp_apply,
    beq_iff_eq, and_legalPair_eq_iff]
  constructor
  · rintro ⟨r, hr, ho, h⟩
    exact (wf_iff_usesOnly hr ho).2 h
  · intro h
    obtain ⟨r, hr, ho, -⟩ := find_row_of_assigned (opcode_mem_of_wf h)
    exact ⟨r, hr, ho, (wf_iff_usesOnly hr ho).1 h⟩

/-! Decoding (R93). -/

theorem decode_of_unassigned {w : CmdWord} (h : (fieldsOf w).opcode ∉ assignedOpcodes) :
    decode w = .reject .unknownOption := by
  rw [decode, decodeFields, find_row_of_unassigned h]

/-- The row found for an opcode builds the command or rejects the other fields. -/
theorem decodeFields_of_find {f : Fields} {r : CommandRow}
    (hf : commandTable.find? (fun r => r.opcode == f.opcode) = some r) :
    (f.UsesOnly r → decodeFields f = .ok (r.build f.arg0 f.arg1)) ∧
      (¬ f.UsesOnly r → decodeFields f = .reject .invalidParameter) := by
  simp only [decodeFields, hf]
  constructor
  · rintro ⟨hrsvd, h0, h1⟩
    rw [if_neg (not_not.2 hrsvd), if_neg fun h => h.2 (h0 h.1), if_neg fun h => h.2 (h1 h.1)]
  · intro h
    split_ifs with hrsvd h0 h1
    · rfl
    · rfl
    · rfl
    · exact absurd ⟨not_not.1 hrsvd, fun hu => of_not_not fun ha => h0 ⟨hu, ha⟩,
        fun hu => of_not_not fun ha => h1 ⟨hu, ha⟩⟩ h

theorem decode_of_ill_formed {w : CmdWord} (ho : (fieldsOf w).opcode ∈ assignedOpcodes)
    (h : (fieldsOf w).wf = false) : decode w = .reject .invalidParameter := by
  obtain ⟨r, hr, hop, hf⟩ := find_row_of_assigned ho
  exact (decodeFields_of_find hf).2 fun hu => by simp [(wf_iff_usesOnly hr hop).2 hu] at h

theorem decode_of_wf {w : CmdWord} (h : (fieldsOf w).wf = true) :
    ∃ i, decode w = .ok i ∧ encode i = w := by
  obtain ⟨r, hr, hop, hf⟩ := find_row_of_assigned (opcode_mem_of_wf h)
  have hu := (wf_iff_usesOnly hr hop).1 h
  refine ⟨_, (decodeFields_of_find hf).1 hu, ?_⟩
  rw [encode, encodeFields_build_of_usesOnly hr hop hu, packFields_fieldsOf]

/-- Settles O1: both notions of a legal word are the checks of the row of its opcode, and the
decoder makes those checks. -/
theorem wordsDecodeExactlyWhenLegal : Obligations.WordsDecodeExactlyWhenLegal := by
  intro w
  refine ⟨wordLegal_iff w, fun h => decode_of_wf ((wordLegal_iff w).1 h), decode_of_unassigned,
    fun ho h => decode_of_ill_formed ho ?_⟩
  rwa [← Bool.not_eq_true, ← wordLegal_iff, Bool.not_eq_true]

/-! A step on a word (60_exceptions.md R257, R264). -/

theorem issueWord_of_ok {w : CmdWord} {i : Instr} (h : decode w = .ok i) (s : State) :
    issueWord w s = returnResult (exec i s) := by
  simp only [issueWord, h]

theorem issueWord_of_reject {w : CmdWord} {k : ErrorKind} (h : decode w = .reject k) (s : State) :
    issueWord w s = .next (answer (.result (.error k)) (failureEntry k s)) := by
  simp only [issueWord, h, returnResult, failureEntry_result, answer]

/-- Settles O4: the step issues the word, and issuing it runs the decoded command. -/
theorem stepIssuesDecodedCommand : Obligations.StepIssuesDecodedCommand := by
  intro s w rest i hq hd
  rw [step_of_hostq_cons hq, act, issueWord_of_ok hd]
  cases exec i { s with hostq := rest, freeCtr := s.freeCtr + 1 } <;> rfl

/-- R257: the failure entry, field by field. -/
theorem failureEntry_eq (k : ErrorKind) (s : State) :
    failureEntry k s = { s with
      ft := none, arena := none, pq := none, rootValid := false, code := none, ftree := none,
      snk := if s.snkBound = true then [] else s.snk, result := .error k, done := true } := by
  cases hb : s.snkBound <;> simp [failureEntry, snkTruncate, releaseAll, hb]

/-- Settles O5: the decoder rejects the word with that kind, and the step is its failure entry. -/
theorem illegalWordsFail : Obligations.IllegalWordsFail := by
  intro s w rest k hq hk
  have hd : decode w = .reject k := by
    rcases hk with ⟨ho, rfl⟩ | ⟨ho, hwf, rfl⟩
    · exact decode_of_unassigned ho
    · exact decode_of_ill_formed ho hwf
  rw [step_of_hostq_cons hq, act, issueWord_of_reject hd, failureEntry_eq]
  rfl

end Sys2Proof
end

section
/-! PROOFS. `FT_COUNT` (40_frequency_table.md R130 to R134): its loop has counted, at each position,
the bytes before it (O20, O21). -/

namespace Sys2Proof.Machine

/-! The table of a byte list (R130, R131). -/

theorem freqTable_ext {ft ft' : FreqTable} (h : ∀ b, tableGet ft b = tableGet ft' b) : ft = ft' := by
  apply Vector.toList_inj.1
  simp only [toList_eq_map_tableGet, h]

@[simp] theorem tableGet_countsOf (bs : List Byte) (b : Byte) :
    tableGet (countsOf bs) b = BitVec.ofNat 32 (bs.count b) := by
  simp [tableGet, countsOf]

@[simp] theorem countsOf_nil : countsOf [] = Vector.replicate 256 0 :=
  freqTable_ext fun b => by rw [tableGet_countsOf]; simp [tableGet]

/-- R130: counting one more byte. -/
theorem bumpCount_countsOf (bs : List Byte) (b : Byte) :
    bumpCount (countsOf bs) b = countsOf (bs ++ [b]) := by
  refine freqTable_ext fun c => ?_
  rw [bumpCount, tableGet_tableSet]
  split
  · next h => simp [h, BitVec.ofNat_add]
  · next h => simp [Ne.symm h]

/-- R131: within `MAX_INPUT` bytes no counter wraps round to 0, so the entries that are not 0 are
those of the bytes that occur. -/
theorem distinctCount_countsOf {bs : List Byte} (h : bs.length ≤ Config.maxInput) :
    distinctCount (countsOf bs) = distinctOf bs := by
  rw [distinctCount, distinctOf, toList_eq_map_tableGet, List.countP_map,
    ← List.countP_eq_length_filter]
  refine List.countP_congr fun i _ => ?_
  have hlt : bs.count (BitVec.ofNat 8 i) < 4294967296 :=
    (List.count_le_length.trans h).trans_lt (by decide)
  simp [← BitVec.toNat_inj, Nat.mod_eq_of_lt hlt, List.count_eq_zero]

/-! The loop (R130). -/

section
variable {s u : State} {b : Byte} {ft : FreqTable} {n t : Nat}

theorem countLoop_of_err (h : srcNext s = .err) :
    countLoop (n + 1) ft t s = .raised .fileAccessFailure s := by
  simp only [countLoop, h]

theorem countLoop_of_eof (h : srcNext s = .eof) : countLoop (n + 1) ft t s = .ok (ft, t) s := by
  simp only [countLoop, h]

theorem countLoop_of_byte (h : srcNext s = .byte b u) (ht : t ≠ Config.maxInput) :
    countLoop (n + 1) ft t s = countLoop n (bumpCount ft b) (t + 1) u := by
  simp only [countLoop, h, if_neg ht]

/-- R133: the byte that would make the count 2^32. -/
theorem countLoop_of_byte_maxInput (h : srcNext s = .byte b u) :
    countLoop (n + 1) ft Config.maxInput s = .raised .invalidParameter u := by
  simp only [countLoop, h, if_true]

end

/-- R130: after `k` passes on a source that gives `k` bytes, these are counted and the position is
`k`. -/
theorem countLoop_prefix {s : State} {k : Nat} (hb : s.srcBound = true)
    (hf : allows s.srcFailAt k = true) (hlen : k ≤ s.src.length) (hmax : k ≤ Config.maxInput) :
    countLoop (s.src.length + 1) (Vector.replicate 256 0) 0 (srcRewind s) =
      countLoop (s.src.length - k + 1) (countsOf (s.src.take k)) k { s with srcPos := k } := by
  induction k with
  | zero => simp [srcRewind]
  | succ k ih =>
    have hread : srcNext { s with srcPos := k } = .byte s.src[k] { s with srcPos := k + 1 } :=
      srcNext_of_byte hb hf (List.getElem?_eq_getElem hlen)
    have hpass : s.src.length - k = s.src.length - (k + 1) + 1 := by omega
    rw [ih (allows_mono k.le_succ hf) (Nat.le_of_succ_le hlen) (Nat.le_of_succ_le hmax),
      countLoop_of_byte hread (Nat.ne_of_lt hmax), bumpCount_countsOf, List.take_concat_get',
      hpass]

/-! The command (R130 to R134). -/

/-- A failure inside the loop is the command's: nothing of it is written. -/
theorem exec_ftCount_of_raised {s u : State} {k : ErrorKind}
    (h : countLoop (s.src.length + 1) (Vector.replicate 256 0) 0 (srcRewind s) = .raised k u) :
    exec .ftCount s = .next (failureEntry k u) := by
  rw [exec, execFtCount, ftCountBody, h, Res.bind_raised, finish]

section
variable {s : State} (hs : SourceServes s) (hmax : s.src.length ≤ Config.maxInput)
include hs hmax

/-- R130: a readable source is counted to its end. -/
theorem ftCountLoop_of_serves :
    countLoop (s.src.length + 1) (Vector.replicate 256 0) 0 (srcRewind s) =
      .ok (countsOf s.src, s.src.length) { s with srcPos := s.src.length } := by
  obtain ⟨hb, hf⟩ := hs
  have heof : srcNext { s with srcPos := s.src.length } = .eof := srcNext_of_end hb hf le_rfl
  rw [countLoop_prefix hb (allows_mono (Nat.le_succ _) hf) le_rfl hmax, countLoop_of_eof heof,
    List.take_length]

theorem exec_ftCount_of_serves (hne : s.src.length ≠ 0) :
    exec .ftCount s = .next { s with
      ft := some (countsOf s.src), totalChars := BitVec.ofNat 32 s.src.length,
      nDistinct := BitVec.ofNat 9 (distinctOf s.src), srcPos := s.src.length,
      result := .ok, done := true } := by
  rw [exec, execFtCount, ftCountBody, ftCountLoop_of_serves hs hmax, Res.bind_ok, if_neg hne,
    distinctCount_countsOf hmax]
  rfl

end

/-- R132: an empty source. -/
theorem exec_ftCount_of_nil {s : State} (hs : SourceServes s) (hnil : s.src = []) :
    exec .ftCount s = .next (failureEntry .invalidResource { s with srcPos := 0 }) := by
  have hlen : s.src.length = 0 := List.length_eq_zero_iff.2 hnil
  rw [exec, execFtCount, ftCountBody, ftCountLoop_of_serves hs (by simp [hlen]), Res.bind_ok,
    if_pos hlen, hlen, finish]

/-- 20_memory.md R63: no source bound. -/
theorem exec_ftCount_of_unbound {s : State} (hb : s.srcBound = false) :
    exec .ftCount s = .next (failureEntry .fileAccessFailure { s with srcPos := 0 }) :=
  exec_ftCount_of_raised (countLoop_of_err (srcNext_of_err (.inl hb)))

/-- 20_memory.md R63: the read at the failure point fails. -/
theorem exec_ftCount_of_failure {s : State} {f : Nat} (hb : s.srcBound = true)
    (hf : s.srcFailAt = some f) (hlen : f ≤ s.src.length) (hmax : f ≤ Config.maxInput) :
    exec .ftCount s = .next (failureEntry .fileAccessFailure { s with srcPos := f }) := by
  have herr : srcNext { s with srcPos := f } = .err :=
    srcNext_of_err (.inr (by simp [hf, allows]))
  apply exec_ftCount_of_raised
  rw [countLoop_prefix hb (by simp [hf, allows]) hlen hmax, countLoop_of_err herr]

/-- R133: the byte number 2^32 is read but not counted. -/
theorem exec_ftCount_of_too_long {s : State} (hb : s.srcBound = true)
    (hf : allows s.srcFailAt (Config.maxInput + 1) = true) (hlen : Config.maxInput < s.src.length) :
    exec .ftCount s =
      .next (failureEntry .invalidParameter { s with srcPos := Config.maxInput + 1 }) := by
  have hread : srcNext { s with srcPos := Config.maxInput } =
      .byte s.src[Config.maxInput] { s with srcPos := Config.maxInput + 1 } :=
    srcNext_of_byte hb hf (List.getElem?_eq_getElem hlen)
  apply exec_ftCount_of_raised
  rw [countLoop_prefix hb (allows_mono (Nat.le_succ _) hf) hlen.le le_rfl,
    countLoop_of_byte_maxInput hread]

/-- Settles O20: the loop counts the whole source, and its length is not 0. -/
theorem ftCountCountsSource : Obligations.FtCountCountsSource :=
  fun _ hs hpos hmax => exec_ftCount_of_serves hs hmax (Nat.ne_of_gt hpos)

/-- Settles O21: the loop reads no byte, the bytes up to the failure point, none of an empty source,
or `MAX_INPUT` bytes, and then fails. -/
theorem ftCountFailures : Obligations.FtCountFailures :=
  fun _ => ⟨exec_ftCount_of_unbound, fun _ => exec_ftCount_of_failure, exec_ftCount_of_nil,
    exec_ftCount_of_too_long⟩

end Sys2Proof.Machine
end

section
/-! PROOFS. The heap's procedures case by case (41_priority_queue.md R143, R145, R146): which place
an inserted entry takes, and how equal entries leave (O24, O28). -/

namespace Sys2Proof.Machine

variable {h : List HeapEntry} {i n : Nat} {e p x : HeapEntry}

/-! `SiftUp` (R143). -/

/-- R143: an entry not smaller than its parent does not move. -/
theorem siftUp_of_le (hp : h[(i - 1) / 2]? = some p) (he : h[i]? = some e)
    (hle : p.freq.toNat ≤ e.freq.toNat) : siftUp n h i = h := by
  cases n with
  | zero => rfl
  | succ n =>
    have hngt : ¬ p.freq > e.freq := Nat.not_lt.2 hle
    simp only [siftUp, hp, he, if_neg hngt, ite_self]

/-- R143: an entry smaller than its parent is swapped with it, and goes on from there. -/
theorem siftUp_of_lt (hi : i ≠ 0) (hp : h[(i - 1) / 2]? = some p) (he : h[i]? = some e)
    (hlt : e.freq.toNat < p.freq.toNat) :
    siftUp (n + 1) h i = siftUp n (swapEntries h ((i - 1) / 2) i p e) ((i - 1) / 2) := by
  have hgt : p.freq > e.freq := hlt
  simp only [siftUp, if_neg hi, hp, he, if_pos hgt]

/-- What ends up in the second place exchanged is the entry of the first. -/
theorem swapEntries_getElem?_right {j : Nat} {a b : HeapEntry} (hj : j < h.length) :
    (swapEntries h i j a b)[j]? = some a := by
  simp [swapEntries, hj]

theorem swapEntries_getElem?_of_ne {j k : Nat} {a b : HeapEntry} (hi : k ≠ i) (hj : k ≠ j) :
    (swapEntries h i j a b)[k]? = h[k]? := by
  simp [swapEntries, Ne.symm hi, Ne.symm hj]

/-- R143: the entries behind the starting place stay where they are. -/
theorem siftUp_getElem?_of_lt (n : Nat) (h : List HeapEntry) {i j : Nat} (hij : i < j) :
    (siftUp n h i)[j]? = h[j]? := by
  induction n generalizing h i with
  | zero => rfl
  | succ n ih =>
    have hpar : (i - 1) / 2 < j := by omega
    unfold siftUp
    split
    · rfl
    · split
      · split
        · rw [ih _ hpar, swapEntries_getElem?_of_ne hpar.ne' hij.ne']
        · rfl
      · rfl

/-- Settles O24: at the first pass the new entry stays, or its parent takes its place, behind all
that later passes touch. -/
theorem siftUpSwapsOnlyStrictlyGreater : Obligations.SiftUpSwapsOnlyStrictlyGreater := by
  intro h e p hne hp
  have hlen : 0 < h.length := List.length_pos_iff.2 hne
  have hpar : (h ++ [e])[(h.length - 1) / 2]? = some p := by
    rw [List.getElem?_append_left (by omega), hp]
  have hnew : (h ++ [e])[h.length]? = some e := List.getElem?_concat_length
  refine ⟨fun hle => siftUp_of_le hpar hnew hle, fun hlt => ?_⟩
  obtain ⟨n, hn⟩ : ∃ n, h.length = n + 1 := Nat.exists_eq_add_one.2 hlen
  have hpass : heapPush h e =
      siftUp n (swapEntries (h ++ [e]) ((h.length - 1) / 2) h.length p e) ((h.length - 1) / 2) := by
    rw [heapPush, ← siftUp_of_lt hlen.ne' hpar hnew hlt, hn]
  rw [hpass, siftUp_getElem?_of_lt _ _ (by omega), swapEntries_getElem?_right (by simp)]

/-! `SiftDown` and `HeapRemoveMin` (R145, R146). -/

/-- R145: the left child is taken where the right one is not strictly smaller. -/
theorem smallerChild_left {l r : HeapEntry} (hl : h[2 * i + 1]? = some l)
    (hr : h[2 * i + 2]? = some r) (hle : l.freq.toNat ≤ r.freq.toNat) :
    smallerChild h i = some (2 * i + 1, l) := by
  have hnlt : ¬ r.freq < l.freq := Nat.not_lt.2 hle
  simp only [smallerChild, hl, hr, if_neg hnlt]

theorem smallerChild_only {l : HeapEntry} (hl : h[2 * i + 1]? = some l)
    (hr : h[2 * i + 2]? = none) : smallerChild h i = some (2 * i + 1, l) := by
  simp only [smallerChild, hl, hr]

/-- R145: an entry without children does not move. -/
theorem siftDown_of_leaf (hl : h.length ≤ 2 * i + 1) : siftDown n h i = h := by
  have hc : smallerChild h i = none := by
    rw [smallerChild, List.getElem?_eq_none hl]
  cases n with
  | zero => rfl
  | succ n => cases he : h[i]? <;> simp only [siftDown, he, hc]

/-- R145: an entry not larger than its smaller child does not move. -/
theorem siftDown_of_le {c : Nat} (he : h[i]? = some e) (hc : smallerChild h i = some (c, x))
    (hle : e.freq.toNat ≤ x.freq.toNat) : siftDown n h i = h := by
  cases n with
  | zero => rfl
  | succ n =>
    have hngt : ¬ e.freq > x.freq := Nat.not_lt.2 hle
    simp only [siftDown, he, hc, if_neg hngt]

/-- R145: an entry larger than its smaller child is swapped with it, and goes on from there. -/
theorem siftDown_of_lt {c : Nat} (he : h[i]? = some e) (hc : smallerChild h i = some (c, x))
    (hlt : x.freq.toNat < e.freq.toNat) :
    siftDown (n + 1) h i = siftDown n (swapEntries h i c e x) c := by
  have hgt : e.freq > x.freq := hlt
  simp only [siftDown, he, hc, if_pos hgt]

/-- R146: the last entry takes the place of the one removed, and is sifted down. -/
theorem heapPop_concat (m : HeapEntry) (r : List HeapEntry) (l : HeapEntry) :
    heapPop (m :: (r ++ [l])) = some (m, siftDown (r.length + 2) (l :: r) 0) := by
  simp [heapPop]

/-- Settles O28: the last entry goes to the top, where it stays above an equal left child and goes
below a strictly smaller one. -/
theorem equalEntriesLeaveLastSecond : Obligations.EqualEntriesLeaveLastSecond := by
  intro a b c d _ hbc
  have hb : b.freq.toNat = c.freq.toNat := congrArg BitVec.toNat hbc
  refine ⟨?_, fun hcd => ?_⟩
  · have hchild : smallerChild [c, b] 0 = some (1, b) := smallerChild_only rfl rfl
    exact (heapPop_concat a [b] c).trans (by rw [siftDown_of_le (e := c) rfl hchild hb.ge])
  · have hchild : smallerChild [d, b, c] 0 = some (1, b) := smallerChild_left rfl rfl hb.le
    have hpass : siftDown 4 [d, b, c] 0 = siftDown 3 [b, d, c] 1 :=
      siftDown_of_lt (e := d) rfl hchild (hb ▸ hcd)
    refine (heapPop_concat a [b, c] d).trans ?_
    rw [List.length_cons, List.length_singleton, hpass, siftDown_of_leaf (by simp)]

end Sys2Proof.Machine
end

section
/-! PROOFS. The queue's commands `PQ_INIT`, `PQ_INSERT` and `PQ_EXTRACT2` (41_priority_queue.md
R141, R144, R147): completion and failures (O22, O23, O25, O26, O27). -/

namespace Sys2Proof.Machine

/-! What a command answers, from how its body ends. -/

theorem exec_of_body_ok {i : Instr} {s u : State} (h : commandBody i s = .ok () u) :
    exec i s = .next (complete u) := by
  rw [exec_eq_finish, h, finish]

theorem exec_of_body_raised {i : Instr} {s u : State} {k : ErrorKind}
    (h : commandBody i s = .raised k u) : exec i s = .next (failureEntry k u) := by
  rw [exec_eq_finish, h, finish]

/-! The operands (R141, R144). -/

theorem capOperand_of_mem {cap : BitVec 16} (h1 : 1 ≤ cap.toNat) (h256 : cap.toNat ≤ 256) :
    capOperand cap = some (BitVec.ofNat 9 cap.toNat) := by
  rw [capOperand, if_neg (not_or.2 ⟨Nat.ne_of_gt h1, Nat.not_lt.2 h256⟩), BitVec.ofNat_toNat]

theorem capOperand_of_not_mem {cap : BitVec 16} (h : cap.toNat = 0 ∨ 256 < cap.toNat) :
    capOperand cap = none :=
  if_pos h

theorem idxOperand_of_le {idx : BitVec 16} (h : idx.toNat ≤ 511) :
    idxOperand idx = some (BitVec.ofNat 10 idx.toNat) := by
  have hngt : ¬ idx.toNat > Config.arenaDepth - 1 := Nat.not_lt.2 h
  rw [idxOperand, if_neg hngt, BitVec.ofNat_toNat]

theorem idxOperand_of_gt {idx : BitVec 16} (h : 511 < idx.toNat) : idxOperand idx = none :=
  if_pos h

/-! `PQ_INIT` (R141). -/

theorem pqInitBody_of_mem {cap : BitVec 16} (h1 : 1 ≤ cap.toNat) (h256 : cap.toNat ≤ 256)
    (s : State) : pqInitBody cap s =
      .ok () { s with pq := some { cap := BitVec.ofNat 9 cap.toNat, entries := [] } } := by
  simp only [pqInitBody, capOperand_of_mem h1 h256]

theorem pqInitBody_of_not_mem {cap : BitVec 16} (h : cap.toNat = 0 ∨ 256 < cap.toNat)
    (s : State) : pqInitBody cap s = .raised .invalidParameter s := by
  simp only [pqInitBody, capOperand_of_not_mem h]

/-- Settles O22: the decoder undoes the encoder, and the operand's range decides the outcome. -/
theorem pqInitConstructsEmptyQueue : Obligations.PqInitConstructsEmptyQueue :=
  fun cap s => ⟨decode_encode (.pqInit cap),
    fun h1 h256 => exec_of_body_ok (i := .pqInit cap) (pqInitBody_of_mem h1 h256 s),
    fun h => exec_of_body_raised (i := .pqInit cap) (pqInitBody_of_not_mem h s)⟩

/-! `PQ_INSERT` (R144). -/

section
variable {e : HeapEntry} {s : State} {q : Queue}

theorem heapInsert_of_none (hq : s.pq = none) :
    heapInsert e s = .raised .queueNotInitialized s := by
  simp only [heapInsert, hq]

theorem heapInsert_of_full (hq : s.pq = some q) (hfull : q.entries.length = q.cap.toNat) :
    heapInsert e s = .raised .queueSizeExceeded s := by
  simp only [heapInsert, hq, if_pos hfull]

theorem heapInsert_of_room (hq : s.pq = some q) (hroom : q.entries.length ≠ q.cap.toNat) :
    heapInsert e s = .ok () { s with pq := some { q with entries := heapPush q.entries e } } := by
  simp only [heapInsert, hq, if_neg hroom]

end

theorem pqInsertBody_of_gt {idx : BitVec 16} (h : 511 < idx.toNat) (freq : Word32) (s : State) :
    pqInsertBody idx freq s = .raised .invalidParameter s := by
  rw [pqInsertBody, idxOperand_of_gt h]

theorem pqInsertBody_of_le {idx : BitVec 16} (h : idx.toNat ≤ 511) (freq : Word32) (s : State) :
    pqInsertBody idx freq s =
      heapInsert { idx := BitVec.ofNat 10 idx.toNat, freq := freq } s := by
  rw [pqInsertBody, idxOperand_of_le h]

/-- Settles O23: the new queue is `heapPush`, which loses nothing and keeps the order. -/
theorem pqInsertKeepsHeap : Obligations.PqInsertKeepsHeap := by
  intro idx freq s q hidx hq hroom ho
  have hbody := (pqInsertBody_of_le hidx freq s).trans (heapInsert_of_room hq hroom.ne)
  exact ⟨heapPush q.entries _, exec_of_body_ok (i := .pqInsert idx freq) hbody,
    heapPush_perm _ _, heapPush_ordered _ ho⟩

/-- Settles O25: the index is checked before the queue, and the queue's presence before its room. -/
theorem pqInsertFailures : Obligations.PqInsertFailures := fun _ freq s =>
  ⟨fun hidx => exec_of_body_raised (pqInsertBody_of_gt hidx freq s),
    fun hidx hq => exec_of_body_raised ((pqInsertBody_of_le hidx freq s).trans
      (heapInsert_of_none hq)),
    fun _ hidx hq hfull => exec_of_body_raised ((pqInsertBody_of_le hidx freq s).trans
      (heapInsert_of_full hq hfull))⟩

/-! `PQ_EXTRACT2` (R147). -/

/-- R29: in heap order no entry is below the first. -/
theorem HeapOrdered.freqAt_zero_le {h : List HeapEntry} (ho : HeapOrdered h) (i : Nat)
    (hi : i < h.length) : freqAt h 0 ≤ freqAt h i := by
  induction i using Nat.strong_induction_on with
  | _ i ih =>
    rcases Nat.eq_zero_or_pos i with rfl | hi0
    · exact le_rfl
    · exact (ih ((i - 1) / 2) (by omega) (by omega)).trans (ho i hi hi0)

/-- R146: the entry removed from a heap is one of least frequency. -/
theorem HeapOrdered.le_of_heapPop {h h' : List HeapEntry} {a e : HeapEntry} (ho : HeapOrdered h)
    (hp : heapPop h = some (a, h')) (he : e ∈ a :: h') : a.freq.toNat ≤ e.freq.toNat := by
  obtain ⟨h0, hperm, -⟩ := heapPop_some hp
  obtain ⟨i, hi⟩ := List.mem_iff_getElem?.1 (hperm.mem_iff.1 he)
  have hlen : i < h.length := (List.getElem?_eq_some_iff.1 hi).1
  have hle := ho.freqAt_zero_le i hlen
  rwa [freqAt_of_getElem? h0, freqAt_of_getElem? hi] at hle

section
variable {s : State} {q : Queue}

theorem heapExtract2_of_none (hq : s.pq = none) :
    heapExtract2 s = .raised .queueNotInitialized s := by
  simp only [heapExtract2, hq]

/-- R147: with fewer than two entries live the second removal has nothing to remove. -/
theorem heapExtract2_of_lt (hq : s.pq = some q) (hl : q.entries.length < 2) :
    heapExtract2 s = .raised .invalidArguments s := by
  rcases heapExtract2_cases s with ⟨hn, -⟩ | ⟨q', hq', ⟨-, h⟩ | ⟨a, b, g, g', -, -, hperm, -⟩⟩
  · simp [hq] at hn
  · exact h
  · obtain rfl : q = q' := Option.some.inj (hq.symm.trans hq')
    have := hperm.length_eq
    simp only [List.length_cons] at this
    omega

/-- R147: with two entries live both removals answer. -/
theorem heapExtract2_of_ge (hq : s.pq = some q) (hl : 2 ≤ q.entries.length) :
    ∃ a b h h', heapPop q.entries = some (a, h) ∧ heapPop h = some (b, h') ∧
      heapExtract2 s = .ok (a, b) { s with pq := some { q with entries := h' } } := by
  rcases heapExtract2_cases s with ⟨hn, -⟩ | ⟨q', hq', hcases⟩
  · simp [hq] at hn
  · obtain rfl : q = q' := Option.some.inj (hq.symm.trans hq')
    rcases hcases with ⟨hlt, -⟩ | ⟨a, b, h, h', hpa, hpb, -, hx⟩
    · exact absurd hl (Nat.not_le.2 hlt)
    · exact ⟨a, b, h, h', hpa, hpb, hx⟩

end

/-- Settles O26: each removal takes a least entry of what it finds, and keeps the order. -/
theorem pqExtract2TakesTwoSmallest : Obligations.PqExtract2TakesTwoSmallest := by
  intro s q hq hl ho
  obtain ⟨a, b, h, h', hpa, hpb, hx⟩ := heapExtract2_of_ge hq hl
  have hperma := (heapPop_some hpa).2.1
  have hpermb := (heapPop_some hpb).2.1
  have ho' : HeapOrdered h := heapPop_ordered ho hpa
  have hbh : b ∈ h := hpermb.mem_iff.1 List.mem_cons_self
  have hbody : pqExtract2Body s = .ok () { s with
      pq := some { q with entries := h' }, ex0Idx := a.idx, ex0Freq := a.freq, ex1Idx := b.idx,
      ex1Freq := b.freq } := by
    rw [pqExtract2Body, hx, Res.bind_ok]
  exact ⟨a, b, h', exec_of_body_ok (i := .pqExtract2) hbody, ((hpermb.cons a).trans hperma).symm,
    ho.le_of_heapPop hpa (List.mem_cons_of_mem a hbh),
    fun e he => ho'.le_of_heapPop hpb (List.mem_cons_of_mem b he), heapPop_ordered ho' hpb⟩

/-- Settles O27: the extraction raises, and the registers behind it are not written. -/
theorem pqExtract2Failures : Obligations.PqExtract2Failures := by
  refine fun s => ⟨fun hq => exec_of_body_raised ?_, fun q hq hl => exec_of_body_raised ?_⟩
  · rw [commandBody, pqExtract2Body, heapExtract2_of_none hq, Res.bind_raised]
  · rw [commandBody, pqExtract2Body, heapExtract2_of_lt hq hl, Res.bind_raised]

end Sys2Proof.Machine
end

section
/-! PROOFS. `TB_LEAVES` (42_tree_builder.md R161, R162): the leaves of a table, and the queue that
pushing them one after the other leaves (O29). -/

namespace Sys2Proof.Machine

/-! The leaves (R161, R162). -/

/-- R161: the leaf of a byte value. -/
def leafFor (ft : FreqTable) (b : Byte) : WorkNode :=
  { freq := tableGet ft b, sym := b, left := Config.noChild, right := Config.noChild,
    visited := false }

theorem leavesOf_eq_map (ft : FreqTable) :
    leavesOf ft = (((List.range 256).map (BitVec.ofNat 8)).filter (tableGet ft · ≠ 0)).map
      (leafFor ft) := by
  rw [List.filter_map, List.map_map, leavesOf, ← List.filterMap_eq_map, List.filterMap_filter]
  refine List.filterMap_congr fun i _ => ?_
  by_cases h : tableGet ft (BitVec.ofNat 8 i) = 0 <;> simp [h, leafFor]

/-- R161: the leaves are those of the byte values that occur. -/
theorem mem_leavesOf {ft : FreqTable} {n : WorkNode} :
    n ∈ leavesOf ft ↔ ∃ b, tableGet ft b ≠ 0 ∧ leafFor ft b = n := by
  have all (b : Byte) : ∃ i < 256, BitVec.ofNat 8 i = b := ⟨b.toNat, b.isLt, by simp⟩
  simp [leavesOf_eq_map, all]

/-- R162: in ascending byte value. -/
theorem leavesOf_sym_pairwise (ft : FreqTable) :
    ((leavesOf ft).map fun n => n.sym.toNat).Pairwise (· < ·) := by
  have hsym : (fun n : WorkNode => n.sym.toNat) ∘ leafFor ft = BitVec.toNat := rfl
  have hbytes : ((List.range 256).map (BitVec.ofNat 8)).map BitVec.toNat = List.range 256 := by
    rw [List.map_map]
    refine (List.map_congr_left fun i hi => ?_).trans (List.map_id _)
    exact Nat.mod_eq_of_lt (List.mem_range.1 hi)
  rw [leavesOf_eq_map, List.map_map, hsym]
  exact (hbytes ▸ List.pairwise_lt_range).sublist (List.filter_sublist.map _)

/-! The queue (R161). -/

theorem foldl_heapPush_perm (es h : List HeapEntry) : (es.foldl heapPush h).Perm (es ++ h) := by
  induction es generalizing h with
  | nil => exact .refl h
  | cons e es ih => exact (ih _).trans (((heapPush_perm h e).append_left es).trans List.perm_middle)

theorem foldl_heapPush_ordered (es : List HeapEntry) {h : List HeapEntry} (ho : HeapOrdered h) :
    HeapOrdered (es.foldl heapPush h) := by
  induction es generalizing h with
  | nil => exact ho
  | cons e es ih => exact ih (heapPush_ordered e ho)

/-- R161: the entry of a node at an index. -/
def entryOf (p : WorkNode × Nat) : HeapEntry :=
  { idx := BitVec.ofNat 10 p.2, freq := p.1.freq }

/-- R161: with room for them the listed nodes are pushed in turn. -/
theorem insertLeaves_of_room {nodes : List WorkNode} (ps : List (WorkNode × Nat)) {s : State}
    {q : Queue} (hq : s.pq = some q) (hroom : q.entries.length + ps.length ≤ q.cap.toNat)
    (hps : ∀ p ∈ ps, nodes[p.2]? = some p.1) :
    insertLeaves nodes (ps.map Prod.snd) s = .ok () { s with
      pq := some { q with entries := (ps.map entryOf).foldl heapPush q.entries } } := by
  induction ps generalizing s q with
  | nil => simp only [List.map_nil, insertLeaves, List.foldl_nil, ← hq]
  | cons p ps ih =>
    obtain ⟨hp, hps⟩ := List.forall_mem_cons.1 hps
    rw [List.length_cons] at hroom
    have hfree : q.entries.length ≠ q.cap.toNat := by omega
    simp only [List.map_cons, insertLeaves, hp, heapInsert_of_room hq hfree, Res.andThen_ok]
    refine ih (q := { q with entries := heapPush q.entries (entryOf p) }) rfl ?_ hps
    simp only [heapPush_length]
    omega

/-- R161: a queue of capacity `n_distinct` takes every leaf. -/
theorem tbLeavesBody_of_table {s : State} {ft : FreqTable} (hft : s.ft = some ft)
    (hd : s.nDistinct.toNat = distinctCount ft) :
    tbLeavesBody s = .ok () { s with
      arena := some { nodes := leavesOf ft, cap := BitVec.ofNat 10 s.nDistinct.toNat },
      pq := some { cap := s.nDistinct,
                   entries := ((leavesOf ft).zipIdx.map entryOf).foldl heapPush [] },
      rootValid := false, code := none } := by
  have hlen : (leavesOf ft).zipIdx.length = s.nDistinct.toNat := by
    rw [List.length_zipIdx, leavesOf_length, hd]
  have hidx : List.range s.nDistinct.toNat = (leavesOf ft).zipIdx.map Prod.snd := by
    rw [List.zipIdx_map_snd, ← hlen, List.length_zipIdx, List.range_eq_range']
  simp only [tbLeavesBody, hft]
  rw [hidx, insertLeaves_of_room _ rfl (by simp [hlen])
    fun p hp => List.mem_zipIdx_iff_getElem?.1 hp, Res.andThen_ok, BitVec.ofNat_toNat]

/-- Settles O29: pushing keeps the heap order and loses nothing. -/
theorem tbLeavesMakesLeaves : Obligations.TbLeavesMakesLeaves := by
  intro s ft hft hd
  have hperm := foldl_heapPush_perm ((leavesOf ft).zipIdx.map entryOf) []
  rw [List.append_nil] at hperm
  refine ⟨leavesOf ft, _, exec_of_body_ok (i := .tbLeaves) (tbLeavesBody_of_table hft hd),
    leavesOf_length ft, leavesOf_sym_pairwise ft,
    fun b hb => ⟨leafFor ft b, mem_leavesOf.2 ⟨b, hb, rfl⟩, rfl⟩, fun n hn => ?_, rfl, hperm,
    foldl_heapPush_ordered _ fun _ hi => absurd hi (Nat.not_lt_zero _)⟩
  obtain ⟨b, hb, rfl⟩ := mem_leavesOf.1 hn
  exact ⟨hb, rfl⟩

end Sys2Proof.Machine
end

section
/-! PROOFS. `TB_BUILD` one merge at a time (42_tree_builder.md R163 to R165, R168, R171): what a
merge and the last entry do, how each fails, and that the command answers after a merge what it
answers before it (O31, O33, O34). -/

namespace Sys2Proof.Machine

variable {s t : State} {a : Arena} {q : Queue} {x y e : HeapEntry} {h' : List HeapEntry}
  {n : WorkNode}

/-! Appending a node (R163, R164). -/

/-- R163: the arena has a place for one more node, or doubling gives it one. -/
def HasPlace (a : Arena) : Prop :=
  a.nodes.length < a.cap.toNat ∨
    (a.nodes.length = a.cap.toNat ∧ 2 * a.cap.toNat ≤ Config.arenaDepth)

/-- R163: the capacity once one more node is appended. -/
def grownCap (a : Arena) : BitVec 10 :=
  if a.nodes.length = a.cap.toNat then BitVec.ofNat 10 (2 * a.cap.toNat) else a.cap

/-- R163: the arena with one more node. -/
def withNode (a : Arena) (n : WorkNode) : Arena :=
  { nodes := a.nodes ++ [n], cap := grownCap a }

theorem arenaAppend_of_place (ha : s.arena = some a) (hp : HasPlace a) (n : WorkNode) :
    arenaAppend n s = .ok () { s with arena := some (withNode a n) } := by
  rcases hp with hlt | ⟨hfull, hle⟩
  · simp only [arenaAppend, ha, withNode, grownCap, if_neg hlt.ne]
  · have hngt : ¬ 2 * a.cap.toNat > Config.arenaDepth := Nat.not_lt.2 hle
    simp only [arenaAppend, ha, withNode, grownCap, if_pos hfull, if_neg hngt]

theorem arenaAppend_of_full (ha : s.arena = some a) (hfull : a.nodes.length = a.cap.toNat)
    (hgt : Config.arenaDepth < 2 * a.cap.toNat) (n : WorkNode) :
    arenaAppend n s = .raised .memoryAllocationFailure s := by
  simp only [arenaAppend, ha, if_pos hfull, if_pos (show 2 * a.cap.toNat > _ from hgt)]

/-- Doubling does not wrap round. -/
theorem grownCap_of_full (hfull : a.nodes.length = a.cap.toNat)
    (hle : 2 * a.cap.toNat ≤ Config.arenaDepth) : (grownCap a).toNat = 2 * a.cap.toNat := by
  rw [grownCap, if_pos hfull, BitVec.toNat_ofNat]
  exact Nat.mod_eq_of_lt (hle.trans_lt (by decide))

theorem grownCap_of_lt (hlt : a.nodes.length < a.cap.toNat) : grownCap a = a.cap :=
  if_neg hlt.ne

/-! Two removals of the minimum (41_priority_queue.md R147). -/

/-- In `s`, with arena `a` and queue `q`, two removals of the minimum give `x` and then `y`, and
leave the heap `h'`. -/
structure TwoTaken (s : State) (a : Arena) (q : Queue) (x y : HeapEntry) (h' : List HeapEntry) :
    Prop where
  arena : s.arena = some a
  queue : s.pq = some q
  pops : ∃ h, heapPop q.entries = some (x, h) ∧ heapPop h = some (y, h')

theorem twoTaken_of_two_le (ha : s.arena = some a) (hq : s.pq = some q)
    (hl : 2 ≤ q.entries.length) : ∃ x y h', TwoTaken s a q x y h' := by
  obtain ⟨x, y, h, h', hx, hy, -⟩ := heapExtract2_of_ge hq hl
  exact ⟨x, y, h', ha, hq, h, hx, hy⟩

/-- The state once the two are taken. -/
def afterTaking (s : State) (q : Queue) (h' : List HeapEntry) : State :=
  { s with pq := some { q with entries := h' } }

section
variable (hx : TwoTaken s a q x y h')
include hx

theorem TwoTaken.perm : (x :: y :: h').Perm q.entries := by
  obtain ⟨h, hp, hp'⟩ := hx.pops
  exact ((heapPop_some hp').2.1.cons x).trans (heapPop_some hp).2.1

theorem TwoTaken.length : q.entries.length = h'.length + 2 :=
  hx.perm.length_eq.symm

theorem TwoTaken.pqSize_eq : pqSize s = h'.length + 2 := by
  rw [pqSize_eq_elim, hx.queue, Option.elim_some, hx.length]

theorem TwoTaken.heapExtract2_eq : heapExtract2 s = .ok (x, y) (afterTaking s q h') := by
  obtain ⟨h, hp, hp'⟩ := hx.pops
  simp only [heapExtract2, hx.queue, hp, hp', afterTaking]

/-! One merge (R165). -/

theorem TwoTaken.mergeStep_eq : mergeStep s =
    if a.nodes.length ≤ x.idx.toNat ∨ a.nodes.length ≤ y.idx.toNat then
      .raised .invalidArguments (afterTaking s q h')
    else if Config.freqBound ≤ x.freq.toNat + y.freq.toNat then
      .raised .invalidParameter (afterTaking s q h')
    else
      (arenaAppend { freq := x.freq + y.freq, sym := Config.internalSym, left := childOf x.idx,
                     right := childOf y.idx, visited := false } (afterTaking s q h')).andThen
        fun s => heapInsert { idx := BitVec.ofNat 10 (arenaLen s - 1),
                              freq := x.freq + y.freq } s := by
  have hlen : arenaLen (afterTaking s q h') = a.nodes.length := by
    rw [arenaLen_eq_elim, afterTaking, hx.arena, Option.elim_some]
  rw [mergeStep, hx.heapExtract2_eq, Res.bind_ok, hlen]

/-- R165, R171: an index taken is not in the arena. -/
theorem TwoTaken.mergeStep_of_dead
    (hdead : a.nodes.length ≤ x.idx.toNat ∨ a.nodes.length ≤ y.idx.toNat) :
    mergeStep s = .raised .invalidArguments (afterTaking s q h') := by
  rw [hx.mergeStep_eq, if_pos hdead]

section
variable (hxi : x.idx.toNat < a.nodes.length) (hyi : y.idx.toNat < a.nodes.length)
include hxi hyi

/-- R165, R171: the sum does not fit a frequency. -/
theorem TwoTaken.mergeStep_of_overflow (hsum : Config.freqBound ≤ x.freq.toNat + y.freq.toNat) :
    mergeStep s = .raised .invalidParameter (afterTaking s q h') := by
  rw [hx.mergeStep_eq, if_neg (not_or.2 ⟨Nat.not_le.2 hxi, Nat.not_le.2 hyi⟩), if_pos hsum]

/-- R163, R171: the arena is full and cannot double. -/
theorem TwoTaken.mergeStep_of_full (hsum : x.freq.toNat + y.freq.toNat < Config.freqBound)
    (hfull : a.nodes.length = a.cap.toNat) (hgt : Config.arenaDepth < 2 * a.cap.toNat) :
    mergeStep s = .raised .memoryAllocationFailure (afterTaking s q h') := by
  rw [hx.mergeStep_eq, if_neg (not_or.2 ⟨Nat.not_le.2 hxi, Nat.not_le.2 hyi⟩),
    if_neg (Nat.not_le.2 hsum), arenaAppend_of_full (s := afterTaking s q h') hx.arena hfull hgt,
    Res.andThen_raised]

end

end

theorem mergeable_iff : mergeable a x y = true ↔
    x.idx.toNat < a.nodes.length ∧ y.idx.toNat < a.nodes.length ∧
      x.freq.toNat + y.freq.toNat < Config.freqBound ∧ HasPlace a := by
  simp only [mergeable, HasPlace, Bool.and_eq_true, Bool.or_eq_true, decide_eq_true_eq, and_assoc]

theorem TwoTaken.mergeOnce_eq (hx : TwoTaken s a q x y h')
    (hcap : q.entries.length ≤ q.cap.toNat) (hm : mergeable a x y = true) :
    mergeOnce s = some (merged s a q x y h') := by
  obtain ⟨h, hp, hp'⟩ := hx.pops
  simp only [mergeOnce, hx.arena, hx.queue, hp, hp', hcap, hm, decide_true, Bool.and_self, if_true]

/-- What `mergeOnce` says where it answers. -/
theorem mergeOnce_some (h : mergeOnce s = some t) : ∃ a q x y h', TwoTaken s a q x y h' ∧
    q.entries.length ≤ q.cap.toNat ∧ mergeable a x y = true ∧ t = merged s a q x y h' := by
  unfold mergeOnce at h
  split at h
  · rename_i a q ha hq
    split at h
    · cases h
    · rename_i x g hp
      split at h
      · cases h
      · rename_i y g' hp'
        rw [Option.ite_none_right_eq_some, Bool.and_eq_true, decide_eq_true_eq] at h
        obtain ⟨⟨hcap, hm⟩, ht⟩ := h
        exact ⟨a, q, x, y, g', ⟨ha, hq, g, hp, hp'⟩, hcap, hm, (Option.some.inj ht).symm⟩
  · cases h

/-- R165: with arena and queue within their capacities a pass of the loop is a merge, or raises. -/
theorem mergeStep_cases (ha : s.arena = some a) (hq : s.pq = some q)
    (hfit : a.nodes.length ≤ a.cap.toNat) (hcap : q.entries.length ≤ q.cap.toNat) :
    (∃ x y h', TwoTaken s a q x y h' ∧ mergeable a x y = true ∧
      mergeStep s = .ok () (merged s a q x y h')) ∨ ∃ k u, mergeStep s = .raised k u := by
  rcases Nat.lt_or_ge q.entries.length 2 with hl | hl
  · exact .inr ⟨_, _, by rw [mergeStep, heapExtract2_of_lt hq hl, Res.bind_raised]⟩
  obtain ⟨x, y, h', hx⟩ := twoTaken_of_two_le ha hq hl
  by_cases hdead : a.nodes.length ≤ x.idx.toNat ∨ a.nodes.length ≤ y.idx.toNat
  · exact .inr ⟨_, _, hx.mergeStep_of_dead hdead⟩
  rw [not_or, Nat.not_le, Nat.not_le] at hdead
  obtain ⟨hxi, hyi⟩ := hdead
  rcases Nat.lt_or_ge (x.freq.toNat + y.freq.toNat) Config.freqBound with hsum | hsum
  · by_cases hp : HasPlace a
    · have hm : mergeable a x y = true := mergeable_iff.2 ⟨hxi, hyi, hsum, hp⟩
      exact .inl ⟨x, y, h', hx, hm, mergeStep_of_mergeOnce (hx.mergeOnce_eq hcap hm)⟩
    · obtain ⟨hnlt, hndouble⟩ := not_or.1 hp
      have hfull : a.nodes.length = a.cap.toNat := hfit.antisymm (Nat.not_lt.1 hnlt)
      have hgt := Nat.not_le.1 fun hle => hndouble ⟨hfull, hle⟩
      exact .inr ⟨_, _, hx.mergeStep_of_full hxi hyi hsum hfull hgt⟩
  · exact .inr ⟨_, _, hx.mergeStep_of_overflow hxi hyi hsum⟩

/-! The loop (R165). -/

theorem buildLoop_of_le_one (h : pqSize s ≤ 1) (n : Nat) : buildLoop n s = .ok () s := by
  cases n with
  | zero => rfl
  | succ n => rw [buildLoop, if_neg (Nat.not_lt.2 h)]

theorem buildLoop_of_two_le (h : 2 ≤ pqSize s) (n : Nat) :
    buildLoop (n + 1) s = (mergeStep s).andThen (buildLoop n) :=
  if_pos h

theorem arena_of_arenaCap_ne_zero (hc : arenaCap s ≠ 0) : s.arena.isNone = false := by
  cases ha : s.arena with
  | none => exact absurd (by rw [arenaCap_eq_elim, ha]; rfl) hc
  | some a => rfl

theorem pq_of_pqSize_ne_zero (hp : pqSize s ≠ 0) : s.pq.isNone = false := by
  cases hq : s.pq with
  | none => exact absurd (by rw [pqSize_eq_elim, hq]; rfl) hp
  | some q => rfl

/-- R165: with an arena and a queued entry the loop is entered. -/
theorem tbBuildBody_of_live (hc : arenaCap s ≠ 0) (hp : pqSize s ≠ 0) :
    tbBuildBody s = (buildLoop (pqSize s) s).andThen settleRoot := by
  simp [tbBuildBody, hc, hp, arena_of_arenaCap_ne_zero hc, pq_of_pqSize_ne_zero hp]

/-- R165: with one entry there is nothing to merge. -/
theorem tbBuildBody_of_one (hc : arenaCap s ≠ 0) (hp : pqSize s = 1) :
    tbBuildBody s = settleRoot s := by
  rw [tbBuildBody_of_live hc (by omega), buildLoop_of_le_one hp.le, Res.andThen_ok]

/-- R171: a failure of the first merge is the command's. -/
theorem TwoTaken.tbBuildBody_of_raised (hx : TwoTaken s a q x y h') (hc : arenaCap s ≠ 0)
    {k : ErrorKind} {u : State} (hm : mergeStep s = .raised k u) : tbBuildBody s = .raised k u := by
  have hp := hx.pqSize_eq
  rw [tbBuildBody_of_live hc (by omega), hp, buildLoop_of_two_le (by omega), hm,
    Res.andThen_raised, Res.andThen_raised]

/-- R163: a place for a node is a capacity that is not 0, and stays one. -/
theorem grownCap_ne_zero (hi : 0 < a.nodes.length) (hp : HasPlace a) :
    a.cap.toNat ≠ 0 ∧ (grownCap a).toNat ≠ 0 := by
  rcases hp with hlt | ⟨hfull, hle⟩
  · rw [grownCap_of_lt hlt]
    omega
  · rw [grownCap_of_full hfull hle]
    omega

theorem arenaCap_of_mergeOnce (h : mergeOnce s = some t) : arenaCap s ≠ 0 ∧ arenaCap t ≠ 0 := by
  obtain ⟨a, q, x, y, h', hx, -, hm, rfl⟩ := mergeOnce_some h
  obtain ⟨hxi, -, -, hp⟩ := mergeable_iff.1 hm
  have hcap : arenaCap s = a.cap.toNat := by rw [arenaCap_eq_elim, hx.arena, Option.elim_some]
  rw [hcap]
  exact grownCap_ne_zero (Nat.zero_lt_of_lt hxi) hp

/-- R165: the command answers after a merge what it answers before it. -/
theorem tbBuildBody_of_mergeOnce (h : mergeOnce s = some t) : tbBuildBody s = tbBuildBody t := by
  obtain ⟨hs, ht⟩ := arenaCap_of_mergeOnce h
  have hstep := mergeStep_of_mergeOnce h
  obtain ⟨a, q, x, y, h', hx, -, -, rfl⟩ := mergeOnce_some h
  have hsize : pqSize (merged s a q x y h') = h'.length + 1 := heapPush_length _ _
  have hp := hx.pqSize_eq
  rw [tbBuildBody_of_live hs (by omega), tbBuildBody_of_live ht (by omega), hsize, hp,
    buildLoop_of_two_le (by omega), hstep, Res.andThen_ok]

theorem exec_tbBuild_of_body_eq (h : tbBuildBody s = tbBuildBody t) :
    exec .tbBuild s = exec .tbBuild t :=
  congrArg finish h

/-- Settles O31: the state named is the one after the merge. -/
theorem tbBuildMergesTwoMinima : Obligations.TbBuildMergesTwoMinima := by
  intro s a q x y h h' ha hq hcap hx hy hxi hyi hsum hp
  have htaken : TwoTaken s a q x y h' := ⟨ha, hq, h, hx, hy⟩
  have hmerge := htaken.mergeOnce_eq hcap (mergeable_iff.2 ⟨hxi, hyi, hsum, hp⟩)
  have hfreq : BitVec.ofNat 32 (x.freq.toNat + y.freq.toNat) = x.freq + y.freq := by
    rw [BitVec.ofNat_add, BitVec.ofNat_toNat, BitVec.ofNat_toNat, BitVec.setWidth_eq,
      BitVec.setWidth_eq]
  rw [exec_tbBuild_of_body_eq (tbBuildBody_of_mergeOnce hmerge), merged, hfreq]

/-! The last entry (R168). -/

/-- R168: the one-child root above the leaf that an entry names. -/
def rootAbove (e : HeapEntry) : WorkNode :=
  { freq := e.freq, sym := 0x00, left := BitVec.ofNat 16 e.idx.toNat, right := Config.noChild,
    visited := false }

section
variable (ha : s.arena = some a) (hq : s.pq = some q) (he : q.entries = [e])
include ha hq he

/-- R165, R171: the index left is not in the arena. -/
theorem settleRoot_of_dead (hdead : a.nodes.length ≤ e.idx.toNat) :
    settleRoot s = .raised .invalidArguments s := by
  simp only [settleRoot, ha, hq, he, List.getElem?_cons_zero, List.getElem?_eq_none hdead]

variable (hn : a.nodes[e.idx.toNat]? = some n)
include hn

/-- R165: an internal node is the root as it stands. -/
theorem settleRoot_of_internal (hint : n.isLeaf = false) :
    settleRoot s = .ok () { s with root := e.idx, rootValid := true, code := none } := by
  simp [settleRoot, ha, hq, he, hn, hint]

/-- R168: a leaf gets the root above it. -/
theorem settleRoot_of_leaf (hleaf : n.isLeaf = true) (hp : HasPlace a) :
    settleRoot s = .ok () { s with
      arena := some (withNode a (rootAbove e)),
      pq := some { q with entries := [{ idx := BitVec.ofNat 10 a.nodes.length, freq := e.freq }] },
      root := BitVec.ofNat 10 a.nodes.length, rootValid := true, code := none } := by
  have hleft : childOf e.idx = BitVec.ofNat 16 e.idx.toNat := (BitVec.ofNat_toNat _ _).symm
  simp [settleRoot, ha, hq, he, hn, hleaf, arenaAppend_of_place ha hp, replaceFirst, arenaLen,
    withNode, rootAbove, hleft]

/-- R168, R171: there is no place for the root above the leaf. -/
theorem settleRoot_of_full (hleaf : n.isLeaf = true) (hfull : a.nodes.length = a.cap.toNat)
    (hgt : Config.arenaDepth < 2 * a.cap.toNat) :
    settleRoot s = .raised .memoryAllocationFailure s := by
  simp [settleRoot, ha, hq, he, hn, hleaf, arenaAppend_of_full ha hfull hgt]

end

theorem pqSize_of_one (hq : s.pq = some q) (he : q.entries = [e]) : pqSize s = 1 := by
  rw [pqSize_eq_elim, hq, Option.elim_some, he, List.length_singleton]

/-- Settles O33: the last entry is the only one. -/
theorem tbBuildSettlesOneEntry : Obligations.TbBuildSettlesOneEntry := by
  intro s a q e n ha hq he hn hc
  have hcap : arenaCap s ≠ 0 := by rwa [arenaCap_eq_elim, ha, Option.elim_some]
  have hbody := tbBuildBody_of_one hcap (pqSize_of_one hq he)
  refine ⟨fun hleaf hroom hfit _ => ?_, fun hint => ?_⟩
  · have hp : HasPlace a := by
      rcases Nat.lt_or_eq_of_le hfit with hlt | hfull
      · exact .inl hlt
      · exact .inr ⟨hfull, hroom.resolve_left hfull.not_lt⟩
    exact exec_of_body_ok (i := .tbBuild) (hbody.trans (settleRoot_of_leaf ha hq he hn hleaf hp))
  · exact exec_of_body_ok (i := .tbBuild) (hbody.trans (settleRoot_of_internal ha hq he hn hint))

/-! The failures (R171). -/

theorem tbBuildBody_of_no_arena (hc : arenaCap s = 0) :
    tbBuildBody s = .raised .invalidArguments s :=
  if_pos (.inr hc)

theorem tbBuildBody_of_no_entry (hc : arenaCap s ≠ 0) (hp : pqSize s = 0) :
    tbBuildBody s = .raised .queueNotInitialized s := by
  simp [tbBuildBody, hc, hp, arena_of_arenaCap_ne_zero hc]

/-- R165: merges change nothing that a release would keep, leave a capacity, and leave the
command's answer as it was. -/
theorem tbBuildBody_of_mergeTimes {k : Nat} (hc : arenaCap s ≠ 0) (h : mergeTimes k s = some t) :
    releaseAll t = releaseAll s ∧ arenaCap t ≠ 0 ∧ tbBuildBody s = tbBuildBody t := by
  induction k generalizing s with
  | zero =>
    obtain rfl : s = t := Option.some.inj h
    exact ⟨rfl, hc, rfl⟩
  | succ k ih =>
    rw [mergeTimes] at h
    split at h
    · cases h
    · rename_i u hu
      obtain ⟨hrel, ht, hbody⟩ := ih (arenaCap_of_mergeOnce hu).2 h
      have hbody' := (tbBuildBody_of_mergeOnce hu).trans hbody
      obtain ⟨a, q, x, y, h', -, -, -, rfl⟩ := mergeOnce_some hu
      exact ⟨hrel, ht, hbody'⟩

/-- 60_exceptions.md R257: the failure entry keeps nothing that a release clears. -/
theorem exec_tbBuild_of_raised {k : ErrorKind} (h : tbBuildBody s = .raised k t)
    (hrel : releaseAll t = releaseAll s) : exec .tbBuild s = .next (failureEntry k s) := by
  rw [exec_of_body_raised (i := .tbBuild) h, failureEntry, hrel, failureEntry]

/-- Settles O34: the merges that went well leave the answer as it was, and what they changed the
failure entry releases. -/
theorem tbBuildFailures : Obligations.TbBuildFailures := by
  refine fun s => ⟨fun hc => exec_tbBuild_of_raised (tbBuildBody_of_no_arena hc) rfl,
    fun hc hp => exec_tbBuild_of_raised (tbBuildBody_of_no_entry hc hp) rfl,
    fun k t a q hc hk ha hq => ?_⟩
  obtain ⟨hrel, hct, hbody⟩ := tbBuildBody_of_mergeTimes hc hk
  refine ⟨fun x y h h' hx hy => ?_, fun e he => ?_⟩
  · have htaken : TwoTaken t a q x y h' := ⟨ha, hq, h, hx, hy⟩
    have fails {k : ErrorKind} (hm : mergeStep t = .raised k (afterTaking t q h')) :
        exec .tbBuild s = .next (failureEntry k s) :=
      exec_tbBuild_of_raised (hbody.trans (htaken.tbBuildBody_of_raised hct hm)) hrel
    exact ⟨fun hdead => fails (htaken.mergeStep_of_dead hdead),
      fun hxi hyi hsum => fails (htaken.mergeStep_of_overflow hxi hyi hsum),
      fun hxi hyi hsum hfull hgt => fails (htaken.mergeStep_of_full hxi hyi hsum hfull hgt)⟩
  · have fails {k : ErrorKind} (hm : settleRoot t = .raised k t) :
        exec .tbBuild s = .next (failureEntry k s) :=
      exec_tbBuild_of_raised
        ((hbody.trans (tbBuildBody_of_one hct (pqSize_of_one hq he))).trans hm) hrel
    exact ⟨fun hdead => fails (settleRoot_of_dead ha hq he hdead),
      fun n hn hleaf hfull hgt => fails (settleRoot_of_full ha hq he hn hleaf hfull hgt)⟩

end Sys2Proof.Machine
end

section
/-! PROOFS. What `TB_BUILD` builds (42_tree_builder.md R165 to R170), as invariants of its merges: the
frequencies of the appended nodes (O32), and the way down to one root (O30). -/

namespace Sys2Proof.Machine

variable {s t : State} {a a₀ : Arena} {q q₀ : Queue} {x y e : HeapEntry} {h' : List HeapEntry}
  {n m : WorkNode} {nodes : List WorkNode} {N : Nat}

/-! What a merge adds (R165). -/

/-- R165: the node that a merge of `x` and `y` appends. -/
def mergedNode (x y : HeapEntry) : WorkNode :=
  { freq := BitVec.ofNat 32 (x.freq.toNat + y.freq.toNat), sym := 0x00,
    left := BitVec.ofNat 16 x.idx.toNat, right := BitVec.ofNat 16 y.idx.toNat, visited := false }

/-- R165: the entry that it pushes. -/
def mergedEntry (a : Arena) (x y : HeapEntry) : HeapEntry :=
  { idx := BitVec.ofNat 10 a.nodes.length, freq := (mergedNode x y).freq }

/-- R165: the queue that it leaves. -/
def mergedQueue (a : Arena) (q : Queue) (x y : HeapEntry) (h' : List HeapEntry) : Queue :=
  { q with entries := heapPush h' (mergedEntry a x y) }

theorem merged_eq : merged s a q x y h' = { s with
    arena := some (withNode a (mergedNode x y)), pq := some (mergedQueue a q x y h') } := rfl

/-- An index of 10 bits in a child field. -/
theorem ofNat_toNat_eq_childOf (i : NodeIdx) : BitVec.ofNat 16 i.toNat = childOf i :=
  BitVec.ofNat_toNat _ _

theorem mergedNode_freq_toNat (hsum : x.freq.toNat + y.freq.toNat < Config.freqBound) :
    (mergedNode x y).freq.toNat = x.freq.toNat + y.freq.toNat := by
  rw [mergedNode, BitVec.toNat_ofNat]
  exact Nat.mod_eq_of_lt hsum

@[simp] theorem mergedNode_left : (mergedNode x y).left = childOf x.idx :=
  ofNat_toNat_eq_childOf _

@[simp] theorem mergedNode_right : (mergedNode x y).right = childOf y.idx :=
  ofNat_toNat_eq_childOf _

@[simp] theorem rootAbove_left (e : HeapEntry) : (rootAbove e).left = childOf e.idx :=
  ofNat_toNat_eq_childOf _

theorem isLeaf_eq_false_of_left {i : NodeIdx} (h : n.left = childOf i) : n.isLeaf = false := by
  simp [WorkNode.isLeaf, h, childOf_ne_noChild]

theorem ArenaWf.addNode (h : ArenaWf a) (hp : HasPlace a) (hn : nodeWf n a.nodes.length = true) :
    ArenaWf (withNode a n) := by
  have ⟨hpos, hmax, _, _⟩ := h
  rcases hp with hlt | ⟨hfull, hle⟩
  · rw [withNode, grownCap_of_lt hlt]
    exact h.append hn hlt hmax
  · have hcap := grownCap_of_full hfull hle
    exact h.append hn (by omega) (hcap.trans_le hle)

theorem ArenaWf.merge (h : ArenaWf a) (hm : mergeable a x y = true) :
    ArenaWf (withNode a (mergedNode x y)) := by
  obtain ⟨hxi, hyi, -, hp⟩ := mergeable_iff.1 hm
  exact h.addNode hp (nodeWf_of_children mergedNode_left hxi (.inr (by simpa using hyi)))

/-- An index past a well-formed arena's nodes fits the queue's 10 bits. -/
theorem ArenaWf.toNat_ofNat_length (h : ArenaWf a) :
    (BitVec.ofNat 10 a.nodes.length).toNat = a.nodes.length := by
  obtain ⟨-, hmax, hlen, -⟩ := h
  rw [BitVec.toNat_ofNat]
  exact Nat.mod_eq_of_lt ((hlen.trans hmax).trans_lt (by decide))

section
variable (hx : TwoTaken s a q x y h')
include hx

theorem TwoTaken.queueWf (h : QueueWf q) : QueueWf (mergedQueue a q x y h') := by
  obtain ⟨g, hp, hp'⟩ := hx.pops
  have ⟨_, _, hcap, _⟩ := h
  have hl := hx.length
  exact ((h.pop hp).pop hp').push _ (by dsimp only; omega)

/-- R167: the first out is not above the second. -/
theorem TwoTaken.freq_le (ho : HeapOrdered q.entries) : x.freq.toNat ≤ y.freq.toNat := by
  obtain ⟨g, hp, hp'⟩ := hx.pops
  exact ho.le_of_heapPop hp (List.mem_cons_of_mem x ((heapPop_some hp').2.1.mem_iff.1
    List.mem_cons_self))

theorem TwoTaken.left_mem : x ∈ q.entries :=
  hx.perm.mem_iff.1 List.mem_cons_self

theorem TwoTaken.right_mem : y ∈ q.entries :=
  hx.perm.mem_iff.1 (List.mem_cons_of_mem x List.mem_cons_self)

/-- R165: after a merge the queue holds the new entry and some of the old ones. -/
theorem TwoTaken.mem_mergedQueue (he : e ∈ (mergedQueue a q x y h').entries) :
    e = mergedEntry a x y ∨ e ∈ q.entries := by
  refine (List.mem_cons.1 ((heapPush_perm _ _).mem_iff.1 he)).imp_right fun h => ?_
  exact hx.perm.mem_iff.1 (List.mem_cons_of_mem x (List.mem_cons_of_mem y h))

end

theorem mem_drop_append_singleton (hN : N ≤ nodes.length) (h : n ∈ (nodes ++ [m]).drop N) :
    n ∈ nodes.drop N ∨ n = m := by
  rw [List.drop_append_of_le_length hN] at h
  simpa using h

theorem mem_drop_of_getElem? {i : Nat} (hi : N ≤ i) (hn : nodes[i]? = some n) :
    n ∈ nodes.drop N :=
  List.mem_of_getElem? (i := i - N) (by rw [List.getElem?_drop, Nat.add_sub_cancel' hi, hn])

theorem getElem?_append_of_some {i : Nat} (h : nodes[i]? = some n) (more : List WorkNode) :
    (nodes ++ more)[i]? = some n := by
  rw [List.getElem?_append_left (List.getElem?_eq_some_iff.1 h).1, h]

/-! The frequencies (R167, R170). -/

/-- R170: the node's two children are in the array, with frequencies that sum to its own, the left
one's no greater. -/
def SumsChildren (nodes : List WorkNode) (n : WorkNode) : Prop :=
  ∃ l r, nodes[n.left.toNat]? = some l ∧ nodes[n.right.toNat]? = some r ∧
    n.freq.toNat = l.freq.toNat + r.freq.toNat ∧ l.freq.toNat ≤ r.freq.toNat

theorem SumsChildren.append (h : SumsChildren nodes n) (more : List WorkNode) :
    SumsChildren (nodes ++ more) n := by
  obtain ⟨l, r, hl, hr, hsum⟩ := h
  exact ⟨l, r, getElem?_append_of_some hl more, getElem?_append_of_some hr more, hsum⟩

/-- The two-child nodes from index `N` on sum their children. -/
def NewSums (N : Nat) (nodes : List WorkNode) : Prop :=
  ∀ n ∈ nodes.drop N, n.right ≠ Config.noChild → SumsChildren nodes n

theorem NewSums.append (h : NewSums N nodes) (hN : N ≤ nodes.length)
    (hm : m.right ≠ Config.noChild → SumsChildren nodes m) : NewSums N (nodes ++ [m]) := by
  intro n hn hr
  rcases mem_drop_append_singleton hN hn with hold | rfl
  · exact (h n hold hr).append [m]
  · exact (hm hr).append [n]

/-- The entry carries its node's frequency. -/
def Carries (nodes : List WorkNode) (e : HeapEntry) : Prop :=
  ∃ n, nodes[e.idx.toNat]? = some n ∧ n.freq = e.freq

theorem Carries.append (h : Carries nodes e) (more : List WorkNode) :
    Carries (nodes ++ more) e := by
  obtain ⟨n, hn, hf⟩ := h
  exact ⟨n, getElem?_append_of_some hn more, hf⟩

/-- What the merges keep of the frequencies, from an arena of `N` nodes on. -/
structure Summed (N : Nat) (a : Arena) (q : Queue) : Prop where
  arena_wf : ArenaWf a
  queue_wf : QueueWf q
  carries : ∀ e ∈ q.entries, Carries a.nodes e
  old : N ≤ a.nodes.length
  sums : NewSums N a.nodes

theorem Summed.merge (h : Summed N a q) (hx : TwoTaken s a q x y h')
    (hm : mergeable a x y = true) :
    Summed N (withNode a (mergedNode x y)) (mergedQueue a q x y h') where
  arena_wf := h.arena_wf.merge hm
  queue_wf := hx.queueWf h.queue_wf
  carries e he := by
    rcases hx.mem_mergedQueue he with rfl | he
    · refine ⟨mergedNode x y, ?_, rfl⟩
      rw [mergedEntry, h.arena_wf.toNat_ofNat_length]
      exact List.getElem?_concat_length
    · exact (h.carries e he).append _
  old := h.old.trans (by simp [withNode])
  sums := by
    obtain ⟨-, -, hsum, -⟩ := mergeable_iff.1 hm
    refine h.sums.append h.old fun _ => ?_
    obtain ⟨l, hl, hlf⟩ := h.carries x hx.left_mem
    obtain ⟨r, hr, hrf⟩ := h.carries y hx.right_mem
    refine ⟨l, r, by simpa using hl, by simpa using hr, ?_, ?_⟩
    · rw [mergedNode_freq_toNat hsum, hlf, hrf]
    · rw [hlf, hrf]
      obtain ⟨-, -, -, ho⟩ := h.queue_wf
      exact hx.freq_le ho

/-- `Summed` of the arena and the queue a state holds. -/
def SummedState (N : Nat) (s : State) : Prop :=
  ∃ a q, s.arena = some a ∧ s.pq = some q ∧ Summed N a q

theorem mergeStep_summed (h : SummedState N s) :
    (mergeStep s).Meets (fun _ => SummedState N) fun _ _ => True := by
  obtain ⟨a, q, ha, hq, h⟩ := h
  obtain ⟨-, -, hfit, -⟩ := h.arena_wf
  obtain ⟨-, -, hcap, -⟩ := h.queue_wf
  rcases mergeStep_cases ha hq hfit hcap with ⟨x, y, h', hx, hm, he⟩ | ⟨k, u, he⟩
  · rw [he, merged_eq]
    exact ⟨_, _, rfl, rfl, h.merge hx hm⟩
  · rw [he]
    trivial

theorem buildLoop_summed (k : Nat) (h : SummedState N s) :
    (buildLoop k s).Meets (fun _ => SummedState N) fun _ _ => True := by
  induction k generalizing s with
  | zero => exact h
  | succ k ih =>
    unfold buildLoop
    split
    · exact (mergeStep_summed h).andThen fun _ => ih
    · exact h

theorem replaceFirst_arena (e : HeapEntry) (s : State) : (replaceFirst e s).arena = s.arena := by
  obtain ⟨q, h⟩ := replaceFirst_writes e s
  rw [h]

/-- R168: after the loop the arena stays, or a one-child node is appended. -/
theorem settleRoot_appends (s : State) : (settleRoot s).Meets
    (fun _ t => t.arena = s.arena ∨ ∃ a n c, s.arena = some a ∧ n.right = Config.noChild ∧
      t.arena = some { nodes := a.nodes ++ [n], cap := c }) fun _ _ => True := by
  unfold settleRoot
  split
  · split
    · trivial
    · split
      · trivial
      · rename_i e _ _ _ _
        split
        · rcases arenaAppend_cases ⟨e.freq, Config.internalSym, childOf e.idx, Config.noChild,
            false⟩ s with ⟨a, c, ha, -, h⟩ | ⟨-, h⟩ | ⟨a, -, -, -, h⟩ <;> rw [h]
          · exact .inr ⟨a, _, c, ha, rfl, replaceFirst_arena _ _⟩
          · trivial
          · trivial
        · exact .inl rfl
  · trivial
  · trivial

/-- The one-child root of R168 leaves the sums as they are. -/
theorem settleRoot_newSums (h : SummedState N s) : (settleRoot s).Meets
    (fun _ t => ∀ a ∈ t.arena, NewSums N a.nodes) fun _ _ => True := by
  obtain ⟨a, q, ha, -, h⟩ := h
  refine (settleRoot_appends s).imp (fun _ t ht => ?_) fun _ _ => id
  rcases ht with ht | ⟨a', n, c, ha', hright, ht⟩ <;> rw [ht]
  · rw [ha]
    rintro _ ⟨⟩
    exact h.sums
  · obtain rfl : a = a' := Option.some.inj (ha.symm.trans ha')
    rintro _ ⟨⟩
    exact h.sums.append h.old (absurd hright)

theorem tbBuildBody_newSums (h : SummedState N s) : (tbBuildBody s).Meets
    (fun _ t => ∀ a ∈ t.arena, NewSums N a.nodes) fun _ _ => True := by
  unfold tbBuildBody
  split
  · trivial
  · split
    · trivial
    · exact (buildLoop_summed _ h).andThen fun _ => settleRoot_newSums

/-- Settles O32: a command whose result is `OK` has completed. -/
theorem tbBuildSumsFrequencies : Obligations.TbBuildSumsFrequencies := by
  intro s t a a' q ha hq haw hqw hcarries he hok ha' i n hi hn hr
  have hstart : SummedState a.nodes.length s :=
    ⟨a, q, ha, hq, haw, hqw, hcarries, le_rfl, by simp [NewSums]⟩
  rcases exec_of_meets he (tbBuildBody_newSums hstart) with ⟨u, hu, rfl⟩ | ⟨k, u, -, rfl⟩
  · exact hu a' ha' n (mem_drop_of_getElem? hi hn) hr
  · simp at hok

/-! Down to one root (R165 to R168). -/

/-- The sum of the entries' frequencies. -/
def totalFreq (es : List HeapEntry) : Nat :=
  (es.map fun e => e.freq.toNat).sum

theorem totalFreq_perm {es es' : List HeapEntry} (h : es.Perm es') :
    totalFreq es = totalFreq es' :=
  (h.map _).sum_eq

@[simp] theorem totalFreq_cons (e : HeapEntry) (es : List HeapEntry) :
    totalFreq (e :: es) = e.freq.toNat + totalFreq es := rfl

/-- R163: the capacity that one doubling allows. -/
def topCap (a : Arena) : Nat :=
  if 2 * a.cap.toNat ≤ Config.arenaDepth then 2 * a.cap.toNat else a.cap.toNat

/-- R163: below that capacity there is a place. -/
theorem hasPlace_of_lt_topCap (hfit : a.nodes.length ≤ a.cap.toNat)
    (h : a.nodes.length < topCap a) : HasPlace a := by
  rcases Nat.lt_or_eq_of_le hfit with hlt | hfull
  · exact .inl hlt
  · refine .inr ⟨hfull, Nat.not_lt.1 fun hgt => ?_⟩
    rw [topCap, if_neg (Nat.not_le.2 hgt)] at h
    omega

/-- R164: a doubling does not lower it. -/
theorem topCap_le_withNode (hp : HasPlace a) (n : WorkNode) : topCap a ≤ topCap (withNode a n) := by
  rcases hp with hlt | ⟨hfull, hle⟩
  · simp only [topCap, withNode, grownCap_of_lt hlt, le_refl]
  · have hcap : (withNode a n).cap.toNat = 2 * a.cap.toNat := grownCap_of_full hfull hle
    rw [topCap, topCap, hcap, if_pos hle]
    split <;> omega

/-- What holds of the arena `a` and the queue `q` after merges that began with `a₀` and `q₀`. -/
structure MergedFrom (a₀ : Arena) (q₀ : Queue) (a : Arena) (q : Queue) : Prop where
  arena_wf : ArenaWf a
  queue_wf : QueueWf q
  old : a₀.nodes <+: a.nodes
  new : ∀ n ∈ a.nodes.drop a₀.nodes.length, n.sym = 0x00 ∧ n.visited = false ∧ n.isLeaf = false
  live : ∀ e ∈ q.entries, e.idx.toNat < a.nodes.length
  cap_eq : q.cap = q₀.cap
  total : totalFreq q.entries = totalFreq q₀.entries
  count : a.nodes.length + q.entries.length = a₀.nodes.length + q₀.entries.length
  /-- The node appended last is queued. -/
  last : q.entries.length < q₀.entries.length →
    ∃ e ∈ q.entries, e.idx.toNat + 1 = a.nodes.length
  grown : topCap a₀ ≤ topCap a

section
variable (h : MergedFrom a₀ q₀ a q) (hx : TwoTaken s a q x y h')
include h hx

/-- With a sum below 2^32 and room for the merges still to come the next one can be made. -/
theorem MergedFrom.can_merge (hsum : totalFreq q₀.entries < Config.freqBound)
    (hroom : a₀.nodes.length + max 1 (q₀.entries.length - 1) ≤ topCap a₀) :
    mergeable a x y = true := by
  obtain ⟨-, -, hfit, -⟩ := h.arena_wf
  have htotal := (totalFreq_perm hx.perm).trans h.total
  rw [totalFreq_cons, totalFreq_cons] at htotal
  have hl := hx.length
  have hcount := h.count
  have hgrown := h.grown
  exact mergeable_iff.2 ⟨h.live x hx.left_mem, h.live y hx.right_mem, by omega,
    hasPlace_of_lt_topCap hfit (by omega)⟩

theorem MergedFrom.merge (hm : mergeable a x y = true) :
    MergedFrom a₀ q₀ (withNode a (mergedNode x y)) (mergedQueue a q x y h') := by
  obtain ⟨-, -, hsum, hp⟩ := mergeable_iff.1 hm
  have hidx : (mergedEntry a x y).idx.toNat = a.nodes.length := h.arena_wf.toNat_ofNat_length
  have hnodes : (withNode a (mergedNode x y)).nodes.length = a.nodes.length + 1 :=
    List.length_append
  have hentries : (mergedQueue a q x y h').entries.length + 1 = q.entries.length := by
    rw [hx.length, mergedQueue, heapPush_length]
  have hcount := h.count
  exact {
    arena_wf := h.arena_wf.merge hm
    queue_wf := hx.queueWf h.queue_wf
    old := h.old.trans (List.prefix_append _ _)
    new := fun n hn => by
      rcases mem_drop_append_singleton h.old.length_le hn with hold | rfl
      · exact h.new n hold
      · exact ⟨rfl, rfl, isLeaf_eq_false_of_left mergedNode_left⟩
    live := fun e he => by
      rw [hnodes]
      rcases hx.mem_mergedQueue he with rfl | he
      · rw [hidx]
        exact Nat.lt_succ_self _
      · exact Nat.lt_succ_of_lt (h.live e he)
    cap_eq := h.cap_eq
    total := by
      rw [← h.total, ← totalFreq_perm hx.perm, mergedQueue, totalFreq_perm (heapPush_perm _ _)]
      simp only [totalFreq_cons, mergedEntry, mergedNode_freq_toNat hsum, Nat.add_assoc]
    count := by omega
    last := fun _ => ⟨mergedEntry a x y, (heapPush_perm _ _).mem_iff.2 List.mem_cons_self, by
      rw [hidx, hnodes]⟩
    grown := h.grown.trans (topCap_le_withNode hp _) }

end

/-- R165: merging goes on until one entry is left. -/
theorem MergedFrom.exists_one {k : Nat} (hsum : totalFreq q₀.entries < Config.freqBound)
    (hroom : a₀.nodes.length + max 1 (q₀.entries.length - 1) ≤ topCap a₀)
    (ha : s.arena = some a) (hq : s.pq = some q) (h : MergedFrom a₀ q₀ a q)
    (hk : q.entries.length = k + 1) :
    ∃ a' q' e, MergedFrom a₀ q₀ a' q' ∧ q'.entries = [e] ∧
      tbBuildBody s = tbBuildBody { s with arena := some a', pq := some q' } := by
  induction k generalizing s a q with
  | zero =>
    obtain ⟨e, he⟩ := List.length_eq_one_iff.1 hk
    exact ⟨a, q, e, h, he, by rw [← ha, ← hq]⟩
  | succ k ih =>
    obtain ⟨x, y, h', hx⟩ := twoTaken_of_two_le ha hq (by omega)
    have hm := h.can_merge hx hsum hroom
    obtain ⟨-, -, hcap, -⟩ := h.queue_wf
    have hlen : (mergedQueue a q x y h').entries.length = k + 1 := by
      have := hx.length
      rw [mergedQueue, heapPush_length]
      omega
    obtain ⟨a', q', e, h₁, he, hbody⟩ := ih (s := merged s a q x y h') rfl rfl (h.merge hx hm) hlen
    exact ⟨a', q', e, h₁, he, (tbBuildBody_of_mergeOnce (hx.mergeOnce_eq hcap hm)).trans hbody⟩

theorem ArenaWf.arenaCap_ne_zero (h : ArenaWf a) (ha : s.arena = some a) : arenaCap s ≠ 0 := by
  obtain ⟨hpos, -, -, -⟩ := h
  rw [arenaCap_eq_elim, ha]
  exact Nat.ne_of_gt hpos

/-- R165: one entry that names an internal node. -/
theorem tbBuildBody_of_internal (hwf : ArenaWf a) (ha : s.arena = some a) (hq : s.pq = some q)
    (he : q.entries = [e]) (hn : a.nodes[e.idx.toNat]? = some n) (hint : n.isLeaf = false) :
    tbBuildBody s = .ok () { s with
      arena := some a, pq := some { q with entries := [e] }, root := e.idx, rootValid := true,
      code := none } := by
  rw [tbBuildBody_of_one (hwf.arenaCap_ne_zero ha) (pqSize_of_one hq he),
    settleRoot_of_internal ha hq he hn hint, ← ha, ← he, ← hq]

/-- R168: one entry that names a leaf. -/
theorem tbBuildBody_of_leaf (hwf : ArenaWf a) (ha : s.arena = some a) (hq : s.pq = some q)
    (he : q.entries = [e]) (hn : a.nodes[e.idx.toNat]? = some n) (hleaf : n.isLeaf = true)
    (hp : HasPlace a) :
    tbBuildBody s = .ok () { s with
      arena := some (withNode a (rootAbove e)),
      pq := some { q with entries := [{ idx := BitVec.ofNat 10 a.nodes.length, freq := e.freq }] },
      root := BitVec.ofNat 10 a.nodes.length, rootValid := true, code := none } := by
  rw [tbBuildBody_of_one (hwf.arenaCap_ne_zero ha) (pqSize_of_one hq he),
    settleRoot_of_leaf ha hq he hn hleaf hp]

/-- R166: one node was appended per merge. -/
theorem MergedFrom.length_of_one (h : MergedFrom a₀ q₀ a q) (he : q.entries = [e]) :
    a.nodes.length + 1 = a₀.nodes.length + q₀.entries.length := by
  simpa only [he, List.length_singleton] using h.count

/-- R166: after a merge the one entry left names the node appended last. -/
theorem MergedFrom.last_of_one (h : MergedFrom a₀ q₀ a q) (he : q.entries = [e])
    (hl : 2 ≤ q₀.entries.length) : e.idx.toNat + 1 = a.nodes.length := by
  obtain ⟨e', hmem, hlast⟩ := h.last (by rw [he]; exact hl)
  obtain rfl : e' = e := by simpa [he] using hmem
  exact hlast

/-- R168: if the one entry left names a leaf, it was there from the start. -/
theorem MergedFrom.not_two_le_of_leaf (h : MergedFrom a₀ q₀ a q) (he : q.entries = [e])
    (hn : a.nodes[e.idx.toNat]? = some n) (hleaf : n.isLeaf = true) :
    ¬ 2 ≤ q₀.entries.length := by
  intro hl
  have hlast := h.last_of_one he hl
  have hlen := h.length_of_one he
  obtain ⟨-, -, hint⟩ := h.new n (mem_drop_of_getElem? (by omega) hn)
  simp [hleaf] at hint

/-- R163: with no merge to make there is room for the root above a leaf. -/
theorem MergedFrom.hasPlace_of_one (h : MergedFrom a₀ q₀ a q) (he : q.entries = [e])
    (hl : ¬ 2 ≤ q₀.entries.length)
    (hroom : a₀.nodes.length + max 1 (q₀.entries.length - 1) ≤ topCap a₀) : HasPlace a := by
  have ⟨_, _, hfit, _⟩ := h.arena_wf
  have hlen := h.length_of_one he
  have hgrown := h.grown
  exact hasPlace_of_lt_topCap hfit (by omega)

theorem MergedFrom.freq_of_one (h : MergedFrom a₀ q₀ a q) (he : q.entries = [e]) :
    e.freq.toNat = totalFreq q₀.entries := by
  rw [← h.total, he]
  rfl

/-- Settles O30: the merges leave one entry; it names an internal node, which is the root, or the
leaf that was there, and the root goes above it. -/
theorem tbBuildMergesToOneRoot : Obligations.TbBuildMergesToOneRoot := by
  intro s a q ha hq haw hqw hne hlive hsum hroom
  have hpos := List.length_pos_iff.2 hne
  have hstart : MergedFrom a q a q := {
    arena_wf := haw, queue_wf := hqw, old := List.prefix_rfl, new := by simp, live := hlive
    cap_eq := rfl, total := rfl, count := rfl, last := fun hlt => absurd hlt (lt_irrefl _)
    grown := le_rfl }
  obtain ⟨a', q', e, h, he, hbody⟩ := hstart.exists_one (k := q.entries.length - 1) hsum hroom
    ha hq (by omega)
  have hei := h.live e (by simp [he])
  have hn := List.getElem?_eq_getElem hei
  have htotal := h.freq_of_one he
  cases hleaf : (a'.nodes[e.idx.toNat]).isLeaf with
  | false =>
    have hroot := hbody.trans (tbBuildBody_of_internal h.arena_wf rfl rfl he hn hleaf)
    rw [h.cap_eq] at hroot
    exact ⟨a', e, _, exec_of_body_ok (i := .tbBuild) hroot, h.old, h.arena_wf, htotal, hn, hleaf,
      h.new, fun hl => ⟨by have := h.length_of_one he; omega, h.last_of_one he hl⟩⟩
  | true =>
    have hone := h.not_two_le_of_leaf he hn hleaf
    have hp := h.hasPlace_of_one he hone hroom
    have hroot := hbody.trans (tbBuildBody_of_leaf h.arena_wf rfl rfl he hn hleaf hp)
    rw [h.cap_eq] at hroot
    have hint := isLeaf_eq_false_of_left (rootAbove_left e)
    refine ⟨withNode a' (rootAbove e), { idx := BitVec.ofNat 10 a'.nodes.length, freq := e.freq },
      rootAbove e, exec_of_body_ok (i := .tbBuild) hroot, h.old.trans (List.prefix_append _ _),
      h.arena_wf.addNode hp (nodeWf_of_children (rootAbove_left e) hei (.inl rfl)), htotal, ?_, hint,
      fun n hnew => ?_, fun hl => absurd hl hone⟩
    · rw [h.arena_wf.toNat_ofNat_length]
      exact List.getElem?_concat_length
    · rcases mem_drop_append_singleton h.old.length_le hnew with hold | rfl
      · exact h.new n hold
      · exact ⟨rfl, rfl, hint⟩

end Sys2Proof.Machine
end

section
/-! PROOFS. Paths in a node array whose children come before their parents (30_encoding.md R105,
10_state.md R33): where they lead, how long they are, and which of them a left-before-right
traversal with marks enters (43_code_generator.md R183). -/

namespace Sys2Proof.Machine

/-! One step down. -/

/-- The index in a child slot of node `i`, the right one for `true`. -/
def childAt (tree : List FinalNode) (i : Nat) (b : Bool) : Option Nat :=
  match tree[i]? with
  | none => none
  | some n =>
    let c := if b then n.right else n.left
    if c = Config.noChild then none else some c.toNat

/-- 10_state.md R33: every child comes before its parent. -/
def ChildrenFirst (tree : List FinalNode) : Prop :=
  ∀ i b c, childAt tree i b = some c → c < i

section
variable {tree : List FinalNode} {i j c : Nat} {b : Bool} {p q : List Bool} {n : FinalNode}

theorem childAt_of_node (h : tree[i]? = some n) :
    childAt tree i b = if (if b then n.right else n.left) = Config.noChild then none
      else some (if b then n.right else n.left).toNat := by
  simp only [childAt, h]

theorem lt_length_of_childAt (h : childAt tree i b = some c) : i < tree.length := by
  cases hn : tree[i]? with
  | none => simp [childAt, hn] at h
  | some n => exact (List.getElem?_eq_some_iff.1 hn).1

/-- 00_scope.md R12: a leaf has no child. -/
theorem childAt_of_isLeaf (h : tree[i]? = some n) (hleaf : n.isLeaf = true) :
    childAt tree i b = none := by
  simp only [FinalNode.isLeaf, Bool.and_eq_true, beq_iff_eq] at hleaf
  cases b <;> simp [childAt_of_node h, hleaf]

/-! Where a path leads. -/

theorem reach_nil (h : i < tree.length) : reach tree i [] = some i := if_pos h

theorem reach_cons : reach tree i (b :: p) = (childAt tree i b).bind fun c => reach tree c p := by
  rw [reach, childAt]
  cases tree[i]? with
  | none => rfl
  | some n =>
    dsimp only
    generalize (if b = true then n.right else n.left) = c
    by_cases hc : c = Config.noChild <;> simp [hc]

theorem reach_append : reach tree i (p ++ q) = (reach tree i p).bind fun j => reach tree j q := by
  induction p generalizing i with
  | nil =>
    by_cases hi : i < tree.length
    · simp [reach_nil hi]
    · cases q <;> simp [reach, hi]
  | cons b p ih =>
    rw [List.cons_append, reach_cons, reach_cons, Option.bind_assoc]
    exact congrArg _ (funext fun c => ih)

/-- A path that leads to a node with a child leads on to the child. -/
theorem reach_concat (hj : reach tree i p = some j) (hc : childAt tree j b = some c)
    (hlt : c < tree.length) : reach tree i (p ++ [b]) = some c := by
  simp [reach_append, hj, reach_cons, hc, reach_nil hlt]

theorem follow_eq_reach : follow tree i p = (reach tree i p).bind fun j => tree[j]? := by
  induction p generalizing i with
  | nil =>
    by_cases hi : i < tree.length
    · simp [reach_nil hi, follow]
    · simp [reach, follow, hi]
  | cons b p ih =>
    rw [reach_cons, Option.bind_assoc, follow, childAt]
    cases tree[i]? with
    | none => rfl
    | some n =>
      dsimp only
      generalize (if b = true then n.right else n.left) = c
      by_cases hc : c = Config.noChild <;> simp [hc, ih]

/-- Node `j` is a leaf of symbol `b`. -/
def LeafOf (tree : List FinalNode) (j : Nat) (b : Byte) : Prop :=
  ∃ n, tree[j]? = some n ∧ n.isLeaf = true ∧ n.sym = b

theorem LeafOf.childAt {s : Byte} (h : LeafOf tree j s) (b : Bool) : childAt tree j b = none := by
  obtain ⟨n, hn, hleaf, -⟩ := h
  exact childAt_of_isLeaf hn hleaf

theorem leafSym_eq_some {s : Byte} :
    leafSym tree i p = some s ↔ p ≠ [] ∧ ∃ j, reach tree i p = some j ∧ LeafOf tree j s := by
  cases p with
  | nil => simp [leafSym]
  | cons b p =>
    unfold leafSym
    rw [follow_eq_reach]
    cases reach tree i (b :: p) with
    | none => simp
    | some j => cases hn : tree[j]? <;> simp [hn, LeafOf]

/-- 30_encoding.md R105: no path leads on from a leaf, so the path to a leaf begins no other. -/
theorem leafSym_inj_of_prefix {s t : Byte} (hp : leafSym tree i p = some s)
    (hq : leafSym tree i q = some t) (hpq : p <+: q) : s = t := by
  obtain ⟨more, rfl⟩ := hpq
  obtain ⟨-, j, hj, hleaf⟩ := leafSym_eq_some.1 hp
  obtain ⟨-, k, hk, -⟩ := leafSym_eq_some.1 hq
  cases more with
  | nil => simpa [hp] using hq
  | cons b more => simp [reach_append, hj, reach_cons, hleaf.childAt] at hk

/-! The nodes below a node and below one of its slots. -/

/-- The nodes some path from node `i` leads to. -/
def below (tree : List FinalNode) (i : Nat) : Set Nat :=
  {j | ∃ p, reach tree i p = some j}

/-- The nodes some path through one child slot of node `i` leads to. -/
def belowSlot (tree : List FinalNode) (i : Nat) (b : Bool) : Set Nat :=
  {j | ∃ p, reach tree i (b :: p) = some j}

theorem belowSlot_of_child (h : childAt tree i b = some c) : belowSlot tree i b = below tree c := by
  ext j
  simp [belowSlot, below, reach_cons, h]

theorem belowSlot_of_no_child (h : childAt tree i b = none) : belowSlot tree i b = ∅ := by
  ext j
  simp [belowSlot, reach_cons, h]

theorem mem_below_self (h : i < tree.length) : i ∈ below tree i := ⟨[], reach_nil h⟩

theorem below_eq (h : i < tree.length) :
    below tree i = belowSlot tree i false ∪ belowSlot tree i true ∪ {i} := by
  ext j
  constructor
  · rintro ⟨p, hp⟩
    match p with
    | [] => exact .inr (by simpa [reach_nil h, eq_comm] using hp)
    | false :: p => exact .inl (.inl ⟨p, hp⟩)
    | true :: p => exact .inl (.inr ⟨p, hp⟩)
  · rintro ((⟨p, hp⟩ | ⟨p, hp⟩) | rfl)
    · exact ⟨_, hp⟩
    · exact ⟨_, hp⟩
    · exact mem_below_self h

end

section
variable {tree : List FinalNode} (ht : ChildrenFirst tree) {i j : Nat} {b : Bool} {p : List Bool}
include ht

theorem ChildrenFirst.reach_le (h : reach tree i p = some j) : j ≤ i := by
  induction p generalizing i with
  | nil =>
    obtain ⟨-, rfl⟩ : i < tree.length ∧ i = j := by simpa [reach] using h
    exact le_refl i
  | cons b p ih =>
    rw [reach_cons] at h
    obtain ⟨c, hc, hp⟩ := Option.bind_eq_some_iff.1 h
    exact (ih hp).trans (ht i b c hc).le

theorem ChildrenFirst.lt_of_mem_belowSlot (h : j ∈ belowSlot tree i b) : j < i := by
  obtain ⟨p, hp⟩ := h
  rw [reach_cons] at hp
  obtain ⟨c, hc, hp⟩ := Option.bind_eq_some_iff.1 hp
  exact (ht.reach_le hp).trans_lt (ht i b c hc)

theorem ChildrenFirst.child_lt_length {c : Nat} (h : childAt tree i b = some c) :
    c < tree.length :=
  (ht i b c h).trans (lt_length_of_childAt h)

end

/-! Which paths are entered. -/

/-- A left-before-right traversal that starts at node `i` with the nodes in `M` marked enters every
node of the path along it: at a step to the right, what lies below the left slot is marked too. -/
def Enters (tree : List FinalNode) : Set Nat → Nat → List Bool → Prop
  | M, i, [] => i ∉ M
  | M, i, b :: p => i ∉ M ∧ ∃ c, childAt tree i b = some c ∧
      Enters tree (if b then M ∪ belowSlot tree i false else M) c p

theorem Enters.notMem {tree : List FinalNode} {M : Set Nat} {i : Nat} {p : List Bool}
    (h : Enters tree M i p) : i ∉ M := by
  cases p with
  | nil => exact h
  | cons b p => exact h.1

/-- No node of the path is in `M`. -/
def Avoids (tree : List FinalNode) (M : Set Nat) (i : Nat) (p : List Bool) : Prop :=
  ∀ q more, p = q ++ more → ∀ j, reach tree i q = some j → j ∉ M

section
variable {tree : List FinalNode} {M N : Set Nat} {i c : Nat} {b : Bool} {p : List Bool}

theorem avoids_nil (hi : i < tree.length) : Avoids tree M i [] ↔ i ∉ M := by
  refine ⟨fun h => h [] [] rfl i (reach_nil hi), fun h q more hq j hj => ?_⟩
  obtain ⟨rfl, -⟩ := List.append_eq_nil_iff.1 hq.symm
  rw [reach_nil hi] at hj
  cases hj
  exact h

theorem avoids_cons (hc : childAt tree i b = some c) :
    Avoids tree M i (b :: p) ↔ i ∉ M ∧ Avoids tree M c p := by
  have hi := lt_length_of_childAt hc
  constructor
  · intro h
    refine ⟨h [] (b :: p) rfl i (reach_nil hi), fun q more hq j hj => ?_⟩
    exact h (b :: q) more (by rw [hq]; rfl) j (by simpa [reach_cons, hc] using hj)
  · rintro ⟨hm, h⟩ q more hq j hj
    cases q with
    | nil =>
      rw [reach_nil hi] at hj
      cases hj
      exact hm
    | cons b' q =>
      obtain ⟨rfl, hp⟩ := List.cons.inj hq
      exact h q more hp j (by simpa [reach_cons, hc] using hj)

theorem avoids_union : Avoids tree (M ∪ N) i p ↔ Avoids tree M i p ∧ Avoids tree N i p := by
  refine ⟨fun h => ⟨fun q more hq j hj hm => h q more hq j hj (.inl hm),
    fun q more hq j hj hn => h q more hq j hj (.inr hn)⟩, ?_⟩
  rintro ⟨hM, hN⟩ q more hq j hj (hm | hn)
  · exact hM q more hq j hj hm
  · exact hN q more hq j hj hn

theorem avoids_empty : Avoids tree ∅ i p := fun _ _ _ _ _ => id

/-- 43_code_generator.md R183: the first step of a path that is reached first leads to a child, the
rest is reached first from there, and after a step to the right no node of it lies below the left
slot. -/
theorem firstReached_cons :
    FirstReached tree i (b :: p) ↔ ∃ c, childAt tree i b = some c ∧ FirstReached tree c p ∧
      (b = true → Avoids tree (belowSlot tree i false) c p) := by
  constructor
  · rintro ⟨hreach, hfirst⟩
    cases hc : childAt tree i b with
    | none => simp [reach_cons, hc] at hreach
    | some c =>
      refine ⟨c, rfl, ⟨by simpa [reach_cons, hc] using hreach, ?_⟩, ?_⟩
      · intro before after rest other hp
        simpa [reach_cons, hc] using
          hfirst (b :: before) after rest other (by rw [hp]; rfl)
      · rintro rfl q more hq j hj ⟨other, hother⟩
        refine hfirst [] q more other (by rw [hq]; rfl) ?_ ?_
        · rw [List.nil_append, hother]
          exact Option.some_ne_none j
        · rw [List.nil_append, List.nil_append, hother, reach_cons, hc, Option.bind_some, hj]
  · rintro ⟨c, hc, ⟨hreach, hfirst⟩, hleft⟩
    refine ⟨by simpa [reach_cons, hc] using hreach, ?_⟩
    intro before after rest other hp
    cases before with
    | nil =>
      obtain ⟨rfl, hrest⟩ : b = true ∧ p = after ++ rest := by simpa using hp
      intro hother heq
      obtain ⟨j, hj⟩ := Option.ne_none_iff_exists'.1 hother
      rw [List.nil_append] at hj heq
      rw [List.nil_append, hj, reach_cons, hc, Option.bind_some] at heq
      exact hleft rfl after rest hrest j heq.symm ⟨other, hj⟩
    | cons b' before =>
      obtain ⟨rfl, hrest⟩ : b = b' ∧ p = before ++ true :: after ++ rest := by simpa using hp
      simpa [reach_cons, hc] using hfirst before after rest other hrest

/-- 43_code_generator.md R183: a path is entered from the marks `M` when it is reached first and
avoids them. -/
theorem enters_iff (ht : ChildrenFirst tree) (hi : i < tree.length) :
    Enters tree M i p ↔ FirstReached tree i p ∧ Avoids tree M i p := by
  induction p generalizing M i with
  | nil =>
    have hfirst : FirstReached tree i [] :=
      ⟨by simp [reach_nil hi], fun before after rest other h => by simp at h⟩
    rw [Enters, avoids_nil hi, and_iff_right hfirst]
  | cons b p ih =>
    rw [Enters, firstReached_cons]
    cases hc : childAt tree i b with
    | none => simp
    | some c =>
      have hlt := ht.child_lt_length hc
      cases b with
      | false => simp [ih hlt, avoids_cons hc, and_left_comm]
      | true => simp [ih hlt, avoids_cons hc, avoids_union, and_assoc, and_comm]

/-- From no marks, the paths entered are those reached first. -/
theorem enters_empty_iff (ht : ChildrenFirst tree) (hi : i < tree.length) :
    Enters tree ∅ i p ↔ FirstReached tree i p := by
  rw [enters_iff ht hi, and_iff_left avoids_empty]

end

/-! A well-formed arena and its heights. -/

theorem finalsOf_of_node {a : Arena} {i : Nat} {n : WorkNode} (h : a.nodes[i]? = some n) :
    (finalsOf a)[i]? = some (finalOf n) := by
  rw [finalsOf, List.getElem?_map, h]
  rfl

/-- R33: what a child slot of a well-formed node names comes before the node. -/
theorem child_lt_of_nodeWf {n : WorkNode} {i : Nat} (h : nodeWf n i = true) (b : Bool)
    (hne : (if b then n.right else n.left) ≠ Config.noChild) :
    (if b then n.right else n.left).toNat < i := by
  simp only [nodeWf, WorkNode.isLeaf, Bool.or_eq_true, Bool.and_eq_true, beq_iff_eq, bne_iff_ne,
    decide_eq_true_eq] at h
  rcases h with ⟨hl, hr⟩ | ⟨⟨-, hl⟩, hr⟩
  · cases b
    · exact absurd hl hne
    · exact absurd hr hne
  · cases b
    · exact hl
    · exact hr.resolve_left hne

/-- 10_state.md R33: in a well-formed arena children come first. -/
theorem ArenaWf.childrenFirst {a : Arena} (h : ArenaWf a) : ChildrenFirst (finalsOf a) := by
  obtain ⟨-, -, -, hwf⟩ := h
  intro i b c hc
  have hi : i < a.nodes.length := by simpa [finalsOf] using lt_length_of_childAt hc
  have hn := List.getElem?_eq_getElem hi
  rw [childAt_of_node (finalsOf_of_node hn), Option.ite_none_left_eq_some, Option.some.injEq] at hc
  obtain ⟨hne, rfl⟩ := hc
  exact child_lt_of_nodeWf (nodesWf_iff.1 hwf i _ hn) b hne

/-- The height of a node above nodes of the given heights. -/
def heightOver (hs : List Nat) (n : WorkNode) : Nat :=
  if n.isLeaf then 0 else 1 + max (hs.getD n.left.toNat 0) (hs.getD n.right.toNat 0)

theorem heights_concat (xs : List WorkNode) (n : WorkNode) :
    heights (xs ++ [n]) = heights xs ++ [heightOver (heights xs) n] := by
  simp [heights, heightOver]

@[simp] theorem heights_length (xs : List WorkNode) : (heights xs).length = xs.length := by
  induction xs using List.reverseRecOn with
  | nil => rfl
  | append_singleton xs n ih => simp [heights_concat, ih]

/-- The heights of the first nodes do not depend on the nodes behind them. -/
theorem heights_append_getD (xs ys : List WorkNode) {j : Nat} (hj : j < xs.length) :
    (heights (xs ++ ys)).getD j 0 = (heights xs).getD j 0 := by
  induction ys using List.reverseRecOn with
  | nil => simp
  | append_singleton ys n ih =>
    rw [← List.append_assoc, heights_concat, List.getD_append _ _ _ _ (by simp; omega), ih]

/-- A node's height is the one over the nodes before it. -/
theorem heights_getD {nodes : List WorkNode} {i : Nat} {n : WorkNode} (h : nodes[i]? = some n) :
    (heights nodes).getD i 0 = heightOver (heights (nodes.take i)) n := by
  obtain ⟨hi, rfl⟩ := List.getElem?_eq_some_iff.1 h
  have hlen : (nodes.take i).length = i := by simp; omega
  have hsplit : nodes = nodes.take i ++ [nodes[i]] ++ nodes.drop (i + 1) := by simp
  calc (heights nodes).getD i 0
      = (heights (nodes.take i ++ [nodes[i]])).getD i 0 := by
        conv_lhs => rw [hsplit]
        exact heights_append_getD _ _ (by simpa using hi)
    _ = heightOver (heights (nodes.take i)) nodes[i] := by
        rw [heights_concat, List.getD_append_right _ _ _ _ (by simp)]
        simp [hlen]

theorem heights_getD_take {nodes : List WorkNode} {i c : Nat} (hc : c < i)
    (hi : i < nodes.length) :
    (heights (nodes.take i)).getD c 0 = (heights nodes).getD c 0 := by
  rw [← heights_append_getD _ (nodes.drop i) (by simp; omega), List.take_append_drop]

section
variable {a : Arena} (h : ArenaWf a) {i j c : Nat} {b : Bool} {p : List Bool}
include h

/-- A child is less high than its parent. -/
theorem ArenaWf.height_child_lt (hc : childAt (finalsOf a) i b = some c) :
    (heights a.nodes).getD c 0 < (heights a.nodes).getD i 0 := by
  have hi : i < a.nodes.length := by simpa [finalsOf] using lt_length_of_childAt hc
  have hn := List.getElem?_eq_getElem hi
  have hf := finalsOf_of_node hn
  have hinner : a.nodes[i].isLeaf = false := by
    cases hl : a.nodes[i].isLeaf with
    | false => rfl
    | true => rw [childAt_of_isLeaf hf hl] at hc; cases hc
  have hslot : (if b then a.nodes[i].right else a.nodes[i].left).toNat = c := by
    rw [childAt_of_node hf, Option.ite_none_left_eq_some, Option.some.injEq] at hc
    exact hc.2
  rw [heights_getD hn, heightOver, if_neg (by simp [hinner]),
    ← heights_getD_take (h.childrenFirst i b c hc) hi]
  cases b <;> simp at hslot <;> rw [hslot] <;> omega

/-- 43_code_generator.md R183: no path is longer than the node it starts from is high. -/
theorem ArenaWf.length_le_height (hp : reach (finalsOf a) i p = some j) :
    p.length ≤ (heights a.nodes).getD i 0 := by
  induction p generalizing i with
  | nil => exact Nat.zero_le _
  | cons b p ih =>
    rw [reach_cons] at hp
    obtain ⟨c, hc, hp⟩ := Option.bind_eq_some_iff.1 hp
    exact (ih hp).trans_lt (h.height_child_lt hc)

end

end Sys2Proof.Machine
end

section
/-! PROOFS. The walk of `CG_GEN` (43_code_generator.md R181 to R185): what a visit of a node does,
and with it the codes (O35) and the overflow (O36). -/

namespace Sys2Proof.Machine

/-! The marks. -/

/-- The marked nodes. -/
def marks (nodes : List WorkNode) : Set Nat :=
  {i | ∃ n, nodes[i]? = some n ∧ n.visited = true}

/-- How many nodes are not marked. -/
def unseen (nodes : List WorkNode) : Nat :=
  nodes.countP fun n => !n.visited

theorem marks_clearMarks (nodes : List WorkNode) : marks (clearMarks nodes) = ∅ := by
  refine Set.eq_empty_iff_forall_notMem.2 fun i => ?_
  rintro ⟨n, hn, hv⟩
  rw [clearMarks, List.getElem?_map] at hn
  obtain ⟨m, -, rfl⟩ := Option.map_eq_some_iff.1 hn
  cases hv

section
variable {nodes : List WorkNode} {i : Nat} {n : WorkNode} (hn : nodes[i]? = some n)
include hn

theorem marks_markVisited : marks (markVisited nodes i) = marks nodes ∪ {i} := by
  ext j
  simp only [marks, markVisited, List.getElem?_modify, Set.mem_ofPred_eq, Set.mem_union,
    Set.mem_singleton_iff]
  by_cases hij : i = j
  · subst hij
    simp [hn]
  · simp [hij, Ne.symm hij]

theorem notMem_marks_iff : i ∉ marks nodes ↔ n.visited = false := by
  simp [marks, hn]

/-- A mark set on a node that had none leaves one node less without. -/
theorem unseen_markVisited (hi : i ∉ marks nodes) :
    unseen (markVisited nodes i) + 1 = unseen nodes := by
  obtain ⟨hlt, rfl⟩ := List.getElem?_eq_some_iff.1 hn
  have hv := (notMem_marks_iff hn).1 hi
  have hsplit := congrArg unseen (List.take_append_drop i nodes)
  rw [← hsplit, List.drop_eq_getElem_cons hlt, markVisited, List.modify_eq_take_cons_drop hlt]
  simp only [unseen, List.countP_append, List.countP_cons, hv]
  simp [Nat.add_assoc]

end

theorem map_finalOf_markVisited (nodes : List WorkNode) (i : Nat) :
    (markVisited nodes i).map finalOf = nodes.map finalOf := by
  refine List.ext_getElem? fun j => ?_
  simp only [markVisited, List.getElem?_map, List.getElem?_modify]
  cases nodes[j]? with
  | none => rfl
  | some m => by_cases h : i = j <;> simp [h, finalOf]

/-- R181: nothing is left to explore in a child slot of node `i`. -/
def Settled (tree : List FinalNode) (nodes : List WorkNode) (i : Nat) (b : Bool) : Prop :=
  ∀ c, childAt tree i b = some c → c ∈ marks nodes

theorem Settled.mono {tree : List FinalNode} {nodes nodes' : List WorkNode} {i : Nat} {b : Bool}
    (h : Settled tree nodes i b) (hm : marks nodes ⊆ marks nodes') : Settled tree nodes' i b :=
  fun c hc => hm (h c hc)

/-! One pass of the loop. -/

/-- R181: the code table after a node is left: a leaf's code is the path to it. -/
def recorded (code : CodeTable) (n : WorkNode) (path : List Bool) : CodeTable :=
  if n.isLeaf then tableSet code n.sym path.reverse else code

theorem tableGet_recorded (code : CodeTable) (n : WorkNode) (path : List Bool) (s : Byte) :
    tableGet (recorded code n path) s =
      if n.isLeaf = true ∧ s = n.sym then path.reverse else tableGet code s := by
  unfold recorded
  by_cases hl : n.isLeaf = true <;> simp [hl, tableGet_tableSet]

section
variable {tree : List FinalNode} {nodes : List WorkNode} (hs : nodes.map finalOf = tree)
  {i c : Nat} {n : WorkNode} (hn : nodes[i]? = some n)
include hs hn

theorem getElem?_of_shape : tree[i]? = some (finalOf n) := by
  rw [← hs, List.getElem?_map, hn, Option.map_some]

theorem unexplored_of_fresh {b : Bool} (hc : childAt tree i b = some c) (hfresh : c ∉ marks nodes)
    (ht : ChildrenFirst tree) :
    unexplored nodes (if b then n.right else n.left) = some true := by
  have hlt : c < nodes.length := by simpa [← hs] using ht.child_lt_length hc
  rw [childAt_of_node (getElem?_of_shape hs hn), Option.ite_none_left_eq_some,
    Option.some.injEq] at hc
  obtain ⟨hne, rfl⟩ := hc
  simp only [finalOf] at hne hlt hfresh
  have hv := (notMem_marks_iff (List.getElem?_eq_getElem hlt)).1 hfresh
  rw [unexplored, if_neg hne, List.getElem?_eq_getElem hlt, Option.map_some, hv, Bool.not_false]

theorem unexplored_of_settled {b : Bool} (h : Settled tree nodes i b) :
    unexplored nodes (if b then n.right else n.left) = some false := by
  have hchild : childAt tree i b = if (if b then n.right else n.left) = Config.noChild then none
      else some (if b then n.right else n.left).toNat :=
    childAt_of_node (getElem?_of_shape hs hn)
  unfold unexplored
  by_cases hno : (if b then n.right else n.left) = Config.noChild
  · rw [if_pos hno]
  · rw [if_neg hno] at hchild ⊢
    obtain ⟨m, hm, hv⟩ := h _ hchild
    rw [hm, Option.map_some, hv, Bool.not_true]

/-- R181, `Push`: a pass at a node with a child to explore steps down or overflows. -/
theorem walkLoop_down (ht : ChildrenFirst tree) {b : Bool} (hc : childAt tree i b = some c)
    (hfresh : c ∉ marks nodes) (hleft : b = true → Settled tree nodes i false) (k : Nat)
    (code : CodeTable) (stk : List Nat) (path : List Bool) :
    walkLoop (k + 1) nodes code (i :: stk) path =
      if pushOverflows (stk.length + 1) path.length then .overflow
      else walkLoop k nodes code (c :: i :: stk) (b :: path) := by
  have hinner : ¬ n.isLeaf = true := fun hl => by
    rw [childAt_of_isLeaf (getElem?_of_shape hs hn) hl] at hc
    cases hc
  have hopen := unexplored_of_fresh hs hn hc hfresh ht
  rw [childAt_of_node (getElem?_of_shape hs hn), Option.ite_none_left_eq_some,
    Option.some.injEq] at hc
  obtain ⟨-, rfl⟩ := hc
  rw [walkLoop]
  simp only [hn, if_neg hinner]
  cases b with
  | false =>
    simp only [Bool.false_eq_true, if_false] at hopen
    simp [hopen, finalOf]
  | true =>
    have hshut := unexplored_of_settled hs hn (hleft rfl)
    simp only [Bool.false_eq_true, if_false] at hshut
    simp only [if_true] at hopen
    simp [hshut, hopen, finalOf]

/-- R181, `Pop`: a pass at a node with no child to explore marks it and steps up. -/
theorem walkLoop_up (hl : Settled tree nodes i false) (hr : Settled tree nodes i true) (k : Nat)
    (code : CodeTable) (stk : List Nat) (path : List Bool) :
    walkLoop (k + 1) nodes code (i :: stk) path =
      walkLoop k (markVisited nodes i) (recorded code n path) stk path.tail := by
  have hleft := unexplored_of_settled hs hn hl
  have hright := unexplored_of_settled hs hn hr
  simp only [Bool.false_eq_true, if_false, if_true] at hleft hright
  rw [walkLoop, recorded]
  simp only [hn, hleft, hright]
  split <;> rfl

end

/-! Runs of the loop, without counting passes. -/

/-- The arguments of the loop but for its bound. -/
structure Walk where
  nodes : List WorkNode
  code : CodeTable
  stk : List Nat
  path : List Bool

/-- R181: the walk's end under a bound on the passes. -/
def Walk.ends (w : Walk) (k : Nat) : WalkEnd :=
  walkLoop k w.nodes w.code w.stk w.path

/-- The walk comes from `w` to `w'`. A pass down makes the stack higher by one, and a pass up lower
by one with one more node marked: this gives the number of passes. -/
def Leads (w w' : Walk) : Prop :=
  ∃ c, (∀ k, w.ends (k + c) = w'.ends k) ∧
    c + 2 * unseen w'.nodes + w.stk.length = 2 * unseen w.nodes + w'.stk.length

/-- The walk comes from `w` to an overflow, in a number of passes that follows from its marks and
the height of its stack. -/
def Overflows (w : Walk) : Prop :=
  ∃ c, (∀ k, w.ends (k + c) = .overflow) ∧ c + w.stk.length ≤ 2 * unseen w.nodes + 257

theorem Leads.refl (w : Walk) : Leads w w := ⟨0, fun _ => rfl, by omega⟩

theorem Leads.trans {w₁ w₂ w₃ : Walk} (h : Leads w₁ w₂) (h' : Leads w₂ w₃) : Leads w₁ w₃ := by
  obtain ⟨c, hc, hn⟩ := h
  obtain ⟨c', hc', hn'⟩ := h'
  exact ⟨c' + c, fun k => by rw [← Nat.add_assoc, hc, hc'], by omega⟩

theorem Leads.overflows {w w' : Walk} (h : Leads w w') (h' : Overflows w') : Overflows w := by
  obtain ⟨c, hc, hn⟩ := h
  obtain ⟨c', hc', hn'⟩ := h'
  exact ⟨c' + c, fun k => by rw [← Nat.add_assoc, hc, hc'], by omega⟩

/-! What the walk keeps. -/

/-- R181, R185: what holds of the marks and the codes between two passes. -/
structure Traced (tree : List FinalNode) (root : Nat) (nodes : List WorkNode) (code : CodeTable) :
    Prop where
  shape : nodes.map finalOf = tree
  closed : ∀ i ∈ marks nodes, ∀ b, Settled tree nodes i b
  codes_lead : ∀ s, tableGet code s ≠ [] → leafSym tree root (tableGet code s) = some s
  leaves_coded : ∀ i ∈ marks nodes, ∀ p s, reach tree root p = some i →
    leafSym tree root p = some s → tableGet code s ≠ []

/-- R181: the path leads from the root to node `i`, above which the stack holds one node for each
step. -/
structure Stands (tree : List FinalNode) (root i : Nat) (stk : List Nat) (path : List Bool) :
    Prop where
  leads : reach tree root path.reverse = some i
  depth : stk.length = path.length
  fits : path.length ≤ Config.maxCodeLen

section
variable {tree : List FinalNode} {root i c : Nat} {nodes : List WorkNode} {code : CodeTable}
  {stk : List Nat} {path : List Bool} {b : Bool}

theorem Stands.lt_length (h : Stands tree root i stk path) : i < tree.length := by
  have hi := h.leads
  have happ := reach_append (tree := tree) (i := root) (p := path.reverse) (q := [])
  rw [List.append_nil, hi, Option.bind_some] at happ
  by_contra hlt
  simp [reach, hlt] at happ

theorem Stands.down (h : Stands tree root i stk path) (ht : ChildrenFirst tree)
    (hc : childAt tree i b = some c) (hroom : path.length < Config.maxCodeLen) :
    Stands tree root c (i :: stk) (b :: path) where
  leads := by
    rw [List.reverse_cons]
    exact reach_concat h.leads hc (ht.child_lt_length hc)
  depth := by simp [h.depth]
  fits := hroom

/-- The path to a leaf is not empty where some leaf lies below the root: the root is no leaf. -/
theorem Stands.path_ne_nil {p : List Bool} {s t : Byte} (h : Stands tree root i stk path)
    (hleaf : LeafOf tree i t) (hp : leafSym tree root p = some s) : path.reverse ≠ [] := by
  intro hnil
  have hlead := h.leads
  rw [hnil] at hlead
  obtain ⟨-, rfl⟩ : root < tree.length ∧ root = i := by simpa [reach] using hlead
  obtain ⟨hne, j, hj, -⟩ := leafSym_eq_some.1 hp
  cases p with
  | nil => exact hne rfl
  | cons b p => simp [reach_cons, hleaf.childAt] at hj

/-- What lies below a marked node is marked. -/
theorem Traced.below_subset (h : Traced tree root nodes code) (hc : c ∈ marks nodes) :
    below tree c ⊆ marks nodes := by
  rintro j ⟨p, hp⟩
  induction p generalizing c with
  | nil =>
    obtain ⟨-, rfl⟩ : c < tree.length ∧ c = j := by simpa [reach] using hp
    exact hc
  | cons b p ih =>
    rw [reach_cons] at hp
    obtain ⟨d, hd, hp⟩ := Option.bind_eq_some_iff.1 hp
    exact ih (h.closed c hc b d hd) hp

theorem traced_clearMarks {a : Arena} :
    Traced (finalsOf a) root (clearMarks a.nodes) (Vector.replicate 256 []) where
  shape := by simp [clearMarks, finalsOf, finalOf]
  closed := by simp [marks_clearMarks]
  codes_lead s hs := absurd (by simp [tableGet]) hs
  leaves_coded := by simp [marks_clearMarks]

/-- R181: marking a node both of whose slots are settled keeps everything, and a leaf's path becomes
its symbol's code. -/
theorem Traced.up {n : WorkNode} (h : Traced tree root nodes code)
    (hst : Stands tree root i stk path) (hn : nodes[i]? = some n)
    (hset : ∀ b, Settled tree nodes i b) :
    Traced tree root (markVisited nodes i) (recorded code n path) := by
  have hi := getElem?_of_shape h.shape hn
  have hmarks := marks_markVisited hn
  have hsub : marks nodes ⊆ marks (markVisited nodes i) := by
    rw [hmarks]
    exact Set.subset_union_left
  refine ⟨(map_finalOf_markVisited nodes i).trans h.shape, ?_, ?_, ?_⟩
  · rw [hmarks]
    rintro j (hj | rfl) b
    · exact (h.closed j hj b).mono hsub
    · exact (hset b).mono hsub
  · intro s hs
    rw [tableGet_recorded] at hs ⊢
    split at hs
    next hl =>
      rw [if_pos hl]
      exact leafSym_eq_some.2 ⟨hs, i, hst.leads, _, hi, hl.1, hl.2.symm⟩
    next hl =>
      rw [if_neg hl]
      exact h.codes_lead s hs
  · rw [hmarks]
    intro j hj p s hp hps
    rw [tableGet_recorded]
    split
    next hl => exact hst.path_ne_nil ⟨_, hi, hl.1, rfl⟩ hps
    next hl =>
      rcases hj with hj | rfl
      · exact h.leaves_coded j hj p s hp hps
      · obtain ⟨-, k, hk, m, hm, hleaf, hsym⟩ := leafSym_eq_some.1 hps
        cases hp.symm.trans hk
        cases hi.symm.trans hm
        exact absurd ⟨hleaf, hsym.symm⟩ hl

end

/-! Visits. -/

/-- A path entered from node `i`, to which `d` steps have led, makes 256 steps. -/
def Deep (tree : List FinalNode) (M : Set Nat) (i d : Nat) : Prop :=
  ∃ p, d + p.length = 256 ∧ Enters tree M i p

/-- A path entered through one child slot of node `i`, to which `d` steps have led, makes 256
steps. -/
def DeepSlot (tree : List FinalNode) (M : Set Nat) (i : Nat) (b : Bool) (d : Nat) : Prop :=
  ∃ c, childAt tree i b = some c ∧ Deep tree M c (d + 1)

theorem deep_iff {tree : List FinalNode} {M : Set Nat} {i d : Nat} (hd : d ≤ Config.maxCodeLen)
    (hi : i ∉ M) :
    Deep tree M i d ↔
      DeepSlot tree M i false d ∨ DeepSlot tree (M ∪ belowSlot tree i false) i true d := by
  constructor
  · rintro ⟨p, hp, hent⟩
    match p with
    | [] =>
      have hle : d ≤ 255 := hd
      simp at hp
      omega
    | false :: p =>
      obtain ⟨-, c, hc, hent⟩ := hent
      exact .inl ⟨c, hc, p, (Nat.add_right_comm d 1 p.length).trans hp, hent⟩
    | true :: p =>
      obtain ⟨-, c, hc, hent⟩ := hent
      exact .inr ⟨c, hc, p, (Nat.add_right_comm d 1 p.length).trans hp, hent⟩
  · rintro (⟨c, hc, p, hp, hent⟩ | ⟨c, hc, p, hp, hent⟩)
    · exact ⟨false :: p, (Nat.add_right_comm d p.length 1).trans hp, hi, c, hc, hent⟩
    · exact ⟨true :: p, (Nat.add_right_comm d p.length 1).trans hp, hi, c, hc, hent⟩

/-- How a part of the walk that starts at `w` ends: with an overflow where `deep` holds, else with
the stack and path given and the nodes in `S` marked. -/
inductive Visited (tree : List FinalNode) (root : Nat) (w : Walk) (stk : List Nat)
    (path : List Bool) (S : Set Nat) (deep : Prop) : Prop
  | overflow (h : Overflows w) (hdeep : deep)
  | back (nodes : List WorkNode) (code : CodeTable) (h : Leads w ⟨nodes, code, stk, path⟩)
      (htr : Traced tree root nodes code) (hmarks : marks nodes = marks w.nodes ∪ S)
      (hdeep : ¬ deep)

/-- A visit of node `i`: from where the walk stands at it, not yet marked, until it has left it. -/
def VisitsNode (tree : List FinalNode) (root i : Nat) : Prop :=
  ∀ nodes code stk path, Traced tree root nodes code → i ∉ marks nodes →
    Stands tree root i stk path →
    Visited tree root ⟨nodes, code, i :: stk, path⟩ stk path.tail (below tree i)
      (Deep tree (marks nodes) i path.length)

section
variable {tree : List FinalNode} {root i : Nat} {nodes : List WorkNode} {code : CodeTable}
  {stk : List Nat} {path : List Bool}

theorem Traced.node_of_lt (h : Traced tree root nodes code) (hi : i < tree.length) :
    ∃ n, nodes[i]? = some n :=
  ⟨_, List.getElem?_eq_getElem (by simpa [← h.shape] using hi)⟩

/-- R181: an overflow is met at a node 255 steps below the root. -/
theorem Stands.pushOverflows_iff (h : Stands tree root i stk path) :
    pushOverflows (stk.length + 1) path.length = true ↔ path.length = Config.maxCodeLen := by
  simp [pushOverflows, h.depth, Config.stackDepth, Config.maxCodeLen]

/-- R181: the walk at a node explores one of its slots: nothing if no child is there or it is
marked, else the child is visited, or the step down to it is one too many. -/
theorem visited_slot (ht : ChildrenFirst tree) {b : Bool}
    (hvisit : ∀ c, childAt tree i b = some c → VisitsNode tree root c)
    (htr : Traced tree root nodes code) (hst : Stands tree root i stk path)
    (hleft : b = true → Settled tree nodes i false) :
    Visited tree root ⟨nodes, code, i :: stk, path⟩ (i :: stk) path (belowSlot tree i b)
      (DeepSlot tree (marks nodes) i b path.length) := by
  cases hc : childAt tree i b with
  | none =>
    refine .back nodes code (.refl _) htr (by simp [belowSlot_of_no_child hc]) ?_
    rintro ⟨c, hc', -⟩
    cases hc.symm.trans hc'
  | some c =>
    rw [belowSlot_of_child hc]
    have hdeep : DeepSlot tree (marks nodes) i b path.length ↔
        Deep tree (marks nodes) c (path.length + 1) := by simp [DeepSlot, hc]
    rw [hdeep]
    by_cases hmark : c ∈ marks nodes
    · refine .back nodes code (.refl _) htr
        (Set.union_eq_left.2 (htr.below_subset hmark)).symm ?_
      rintro ⟨p, -, hent⟩
      exact hent.notMem hmark
    · obtain ⟨n, hn⟩ := htr.node_of_lt hst.lt_length
      have hpass := fun k => walkLoop_down htr.shape hn ht hc hmark hleft k code stk path
      by_cases hfull : path.length = Config.maxCodeLen
      · refine .overflow ⟨1, fun k => ?_, ?_⟩ ⟨[], by simp [hfull], hmark⟩
        · exact (hpass k).trans (if_pos (hst.pushOverflows_iff.2 hfull))
        · simp [hst.depth, hfull, Config.maxCodeLen]
      · have hlead : Leads ⟨nodes, code, i :: stk, path⟩ ⟨nodes, code, c :: i :: stk, b :: path⟩ :=
          ⟨1, fun k => (hpass k).trans (if_neg (mt hst.pushOverflows_iff.1 hfull)), by
            simp; omega⟩
        have hdown := hst.down ht hc (Nat.lt_of_le_of_ne hst.fits hfull)
        cases hvisit c hc nodes code (i :: stk) (b :: path) htr hmark hdown with
        | overflow h hd => exact .overflow (hlead.overflows h) hd
        | back nodes' code' h htr' hm hd => exact .back nodes' code' (hlead.trans h) htr' hm hd

/-- R181: a node both of whose slots are settled is marked and left. -/
theorem leads_up (htr : Traced tree root nodes code) (hset : ∀ b, Settled tree nodes i b)
    (hi : i ∉ marks nodes) {n : WorkNode} (hn : nodes[i]? = some n) :
    Leads ⟨nodes, code, i :: stk, path⟩
      ⟨markVisited nodes i, recorded code n path, stk, path.tail⟩ := by
  have hunseen := unseen_markVisited hn hi
  exact ⟨1, fun k => walkLoop_up htr.shape hn (hset false) (hset true) k code stk path, by
    simp; omega⟩

/-- R181, R183: every visit of a node marks what lies below it, or overflows where a path entered
from it is too long: its left slot is explored, then its right one, then it is left. -/
theorem visitsNode (ht : ChildrenFirst tree) (i : Nat) : VisitsNode tree root i := by
  induction i using Nat.strong_induction_on with
  | _ i ih =>
  intro nodes code stk path htr hi hst
  have hvisit (b : Bool) (c : Nat) (hc : childAt tree i b = some c) : VisitsNode tree root c :=
    ih c (ht i b c hc)
  rw [deep_iff hst.fits hi, below_eq hst.lt_length]
  cases visited_slot ht (hvisit false) htr hst (fun h => by cases h) with
  | overflow h hd => exact .overflow h (.inl hd)
  | back nodes₁ code₁ h₁ htr₁ hm₁ hd₁ =>
    dsimp only at hm₁
    have hleft : Settled tree nodes₁ i false := fun c hc => by
      rw [hm₁, belowSlot_of_child hc]
      exact .inr (mem_below_self (ht.child_lt_length hc))
    rw [← hm₁]
    cases visited_slot ht (hvisit true) htr₁ hst (fun _ => hleft) with
    | overflow h hd => exact .overflow (h₁.overflows h) (.inr hd)
    | back nodes₂ code₂ h₂ htr₂ hm₂ hd₂ =>
      dsimp only at hm₂
      have hset : ∀ b, Settled tree nodes₂ i b
        | false => hleft.mono (hm₂ ▸ Set.subset_union_left)
        | true => fun c hc => by
          rw [hm₂, belowSlot_of_child hc]
          exact .inr (mem_below_self (ht.child_lt_length hc))
      have hi₂ : i ∉ marks nodes₂ := by
        rw [hm₂, hm₁]
        rintro ((h | h) | h)
        · exact hi h
        · exact lt_irrefl i (ht.lt_of_mem_belowSlot h)
        · exact lt_irrefl i (ht.lt_of_mem_belowSlot h)
      obtain ⟨n, hn⟩ := htr₂.node_of_lt hst.lt_length
      refine .back _ _ (h₁.trans (h₂.trans (leads_up htr₂ hset hi₂ hn))) (htr₂.up hst hn hset) ?_
        (not_or.2 ⟨hd₁, hd₂⟩)
      rw [marks_markVisited hn, hm₂, hm₁]
      simp only [Set.union_assoc]

end

/-! The command. -/

/-- The walk of `CG_GEN` before its first pass. -/
def startWalk (a : Arena) (root : Nat) : Walk :=
  ⟨clearMarks a.nodes, Vector.replicate 256 [], [root], []⟩

section
variable {a : Arena} {root : Nat}

/-- R181: the bound leaves room for the passes that mark every node once. -/
theorem unseen_startWalk_le (a : Arena) (root : Nat) :
    2 * unseen (startWalk a root).nodes + 257 ≤ walkBound a.nodes.length := by
  have hle : unseen (startWalk a root).nodes ≤ (clearMarks a.nodes).length := List.countP_le_length
  rw [clearMarks, List.length_map] at hle
  unfold walkBound
  omega

/-- R181: an overflow or the end of the walk is met within its bound. -/
theorem startWalk_ends_of_overflows (h : Overflows (startWalk a root)) :
    (startWalk a root).ends (walkBound a.nodes.length) = .overflow := by
  obtain ⟨c, hc, hn⟩ := h
  have hb : c ≤ walkBound a.nodes.length := by
    have hle := unseen_startWalk_le a root
    omega
  obtain ⟨k, hk⟩ := Nat.exists_eq_add_of_le' hb
  rw [hk, hc]

theorem startWalk_ends_of_leads {nodes : List WorkNode} {code : CodeTable}
    (h : Leads (startWalk a root) ⟨nodes, code, [], []⟩) :
    (startWalk a root).ends (walkBound a.nodes.length) = .done nodes code := by
  obtain ⟨c, hc, hn⟩ := h
  have hb : 1 + c ≤ walkBound a.nodes.length := by
    have hle := unseen_startWalk_le a root
    simp only [List.length_nil] at hn
    omega
  obtain ⟨k, hk⟩ := Nat.exists_eq_add_of_le' hb
  rw [hk, ← Nat.add_assoc, hc]
  rfl

end

section
variable {s : State} {a : Arena} (ha : s.arena = some a) (hroot : s.rootValid = true)
include ha hroot

theorem cgGenBody_of_done {nodes : List WorkNode} {code : CodeTable}
    (h : (startWalk a s.root.toNat).ends (walkBound a.nodes.length) = .done nodes code) :
    cgGenBody s =
      .ok () { s with arena := some { a with nodes := nodes }, code := some code } := by
  unfold Walk.ends startWalk at h
  simp only [cgGenBody, ha, hroot, h, Bool.true_eq_false, if_false]

theorem cgGenBody_of_overflow
    (h : (startWalk a s.root.toNat).ends (walkBound a.nodes.length) = .overflow) :
    cgGenBody s = .raised .invalidResource s := by
  unfold Walk.ends startWalk at h
  simp only [cgGenBody, ha, hroot, h, Bool.true_eq_false, if_false]

/-- R181, R183: in a well-formed arena `CG_GEN` ends with everything below the root marked, or
overflows where a path of 256 steps is reached first. -/
theorem cgGen_cases (hwf : ArenaWf a) (hlt : s.root.toNat < a.nodes.length) :
    ((∃ p : List Bool, p.length = 256 ∧ FirstReached (finalsOf a) s.root.toNat p) ∧
      exec .cgGen s = .next (failureEntry .invalidResource s)) ∨
    ((¬ ∃ p : List Bool, p.length = 256 ∧ FirstReached (finalsOf a) s.root.toNat p) ∧
      ∃ nodes code, exec .cgGen s = .next (complete { s with
          arena := some { a with nodes := nodes }, code := some code }) ∧
        unmarked nodes = unmarked a.nodes ∧ Traced (finalsOf a) s.root.toNat nodes code ∧
        marks nodes = below (finalsOf a) s.root.toNat) := by
  have ht := hwf.childrenFirst
  have hlen : s.root.toNat < (finalsOf a).length := by simpa [finalsOf] using hlt
  have hfirst : Deep (finalsOf a) (marks (clearMarks a.nodes)) s.root.toNat 0 ↔
      ∃ p : List Bool, p.length = 256 ∧ FirstReached (finalsOf a) s.root.toNat p := by
    simp only [Deep, marks_clearMarks, enters_empty_iff ht hlen, Nat.zero_add]
  rw [← hfirst]
  cases visitsNode ht s.root.toNat _ _ [] [] traced_clearMarks (by simp [marks_clearMarks])
    ⟨reach_nil hlen, rfl, Nat.zero_le _⟩ with
  | overflow h hdeep =>
    exact .inl ⟨hdeep, exec_of_body_raised
      (cgGenBody_of_overflow ha hroot (startWalk_ends_of_overflows h))⟩
  | back nodes code h htr hmarks hdeep =>
    have hends := startWalk_ends_of_leads h
    have hsame := (walkLoop_done hends (Nat.zero_le _) codesFit_empty).1
    rw [marks_clearMarks, Set.empty_union] at hmarks
    exact .inr ⟨hdeep, nodes, code, exec_of_body_ok (cgGenBody_of_done ha hroot hends),
      hsame.trans (unmarked_clearMarks a.nodes), htr, hmarks⟩

end

/-- Settles O35: no path is as long as an overflow takes, and what is marked is all that lies below
the root. -/
theorem cgGenRecordsLeafPaths : Obligations.CgGenRecordsLeafPaths := by
  intro s a ha hroot hwf hlt hheight
  rcases cgGen_cases ha hroot hwf hlt with ⟨⟨p, hp, hreach, -⟩, -⟩ |
    ⟨-, nodes, code, hexec, hsame, htr, hmarks⟩
  · obtain ⟨j, hj⟩ := Option.ne_none_iff_exists'.1 hreach
    have hle := hwf.length_le_height hj
    omega
  · refine ⟨nodes, code, hexec, hsame, htr.codes_lead, fun p b hp => ?_, fun b c hbc hb hpre => ?_⟩
    · obtain ⟨-, j, hj, -⟩ := leafSym_eq_some.1 hp
      exact htr.leaves_coded j (hmarks ▸ ⟨p, hj⟩) p b hj hp
    · have hc : tableGet code c ≠ [] := fun h => hb (List.prefix_nil.1 (h ▸ hpre))
      exact hbc (leafSym_inj_of_prefix (htr.codes_lead b hb) (htr.codes_lead c hc) hpre)

/-- Settles O36: the walk overflows exactly where a path it enters has 256 steps. -/
theorem cgGenFailsOnLongPath : Obligations.CgGenFailsOnLongPath := by
  intro s a ha hroot hwf hlt
  rcases cgGen_cases ha hroot hwf hlt with ⟨hlong, hexec⟩ | ⟨hshort, nodes, code, hexec, -⟩
  · exact ⟨fun _ => hexec, fun h => absurd hlong h⟩
  · exact ⟨fun h => absurd h hshort, fun _ => ⟨_, hexec, rfl⟩⟩

end Sys2Proof.Machine
end

section
/-! PROOFS. The state of a component command that has read the source up to a position and put some
bytes in the sink (20_memory.md R63, R65): what its reads, its puts and a failure do. -/

namespace Sys2Proof.Machine

/-- The state `s` with the source position at `pos` and `out` put behind what the sink held. -/
def moved (s : State) (pos : Nat) (out : List Byte) : State :=
  { s with srcPos := pos, snk := s.snk ++ out }

theorem moved_nil (s : State) (pos : Nat) : moved s pos [] = { s with srcPos := pos } := by
  rw [moved, List.append_nil]

section
variable {s : State} {pos : Nat} {out : List Byte}

theorem srcNext_moved_of_byte {b : Byte} (hb : s.srcBound = true)
    (hf : allows s.srcFailAt (pos + 1) = true) (he : s.src[pos]? = some b) :
    srcNext (moved s pos out) = .byte b (moved s (pos + 1) out) :=
  srcNext_of_byte (s := moved s pos out) hb hf he

theorem srcNext_moved_of_end (hb : s.srcBound = true) (hf : allows s.srcFailAt (pos + 1) = true)
    (he : s.src.length ≤ pos) : srcNext (moved s pos out) = .eof :=
  srcNext_of_end (s := moved s pos out) hb hf he

theorem srcNext_moved_of_err (h : s.srcBound = false ∨ allows s.srcFailAt (pos + 1) = false) :
    srcNext (moved s pos out) = .err :=
  srcNext_of_err (s := moved s pos out) h

theorem sinkRoom_moved : sinkRoom (moved s pos out) = (sinkRoom s).map fun g => g - out.length :=
  sinkRoom_append { s with srcPos := pos } out

theorem snkPut_moved_of_room (b : Byte) (h : RoomFor (out.length + 1) s) :
    snkPut b (moved s pos out) = .ok () (moved s pos (out ++ [b])) := by
  have h1 : RoomFor 1 (moved s pos out) := by
    intro g hg
    rw [sinkRoom_moved] at hg
    obtain ⟨r, hr, rfl⟩ := Option.mem_map.1 hg
    exact Nat.le_sub_of_add_le' (h r hr)
  rw [snkPut_of_room b h1, moved, moved, List.append_assoc]

theorem snkPut_moved_of_full (b : Byte) (h : sinkRoom s = some out.length) :
    snkPut b (moved s pos out) = .raised .fileAccessFailure (moved s pos out) :=
  snkPut_of_no_room b (by rw [sinkRoom_moved, h, Option.map_some, Nat.sub_self])

/-- 60_exceptions.md R257: a failure leaves nothing of what was put. -/
theorem failureEntry_moved (k : ErrorKind) (h : RoomFor out.length s) :
    failureEntry k (moved s pos out) = failureEntry k { s with srcPos := pos } := by
  by_cases hb : s.snkBound = true
  · simp [failureEntry, snkTruncate, releaseAll, moved, hb]
  · have h0 : out.length ≤ 0 := h 0 (by simp [sinkRoom, hb])
    rw [List.length_eq_zero_iff.1 (Nat.le_zero.1 h0), moved_nil]

end

theorem RoomFor.mono {s : State} {m n : Nat} (h : RoomFor n s) (hmn : m ≤ n) : RoomFor m s :=
  fun g hg => hmn.trans (h g hg)

theorem roomFor_of_sinkRoom {s : State} {g n : Nat} (h : sinkRoom s = some g) (hn : n ≤ g) :
    RoomFor n s := by
  intro g' hg'
  rw [Option.mem_def, h, Option.some.injEq] at hg'
  exact hg' ▸ hn

theorem roomFor_of_sinkTakes {s : State} {n : Nat} (h : SinkTakes n s) : RoomFor n s := by
  obtain ⟨hb, hf⟩ := h
  intro g hg
  rw [sinkRoom, if_pos hb] at hg
  obtain ⟨f, hfail, rfl⟩ := Option.mem_map.1 hg
  rw [Option.mem_def] at hfail
  simp only [hfail, allows, decide_eq_true_eq] at hf
  omega

end Sys2Proof.Machine
end

section
/-! PROOFS. The payload by whole bytes (30_encoding.md R106, 44_bit_packer_unpacker.md R191, R192):
the bytes a bit string fills, and the bits left over for the accumulator. -/

namespace Sys2Proof.Machine

/-- R191: `acc` with one more bit. -/
def shiftIn (acc : Byte) (b : Bool) : Byte :=
  (acc <<< 1) ||| (BitVec.ofBool b).setWidth 8

/-- R191: `acc` after these bits. -/
def accOf (bits : List Bool) : Byte :=
  bits.foldl shiftIn 0

/-- The bytes that the bits fill. -/
def fullBytes (bits : List Bool) : List Byte :=
  (List.range (bits.length / 8)).map (packedByte bits)

/-- The bits behind the last full byte. -/
def leftBits (bits : List Bool) : List Bool :=
  bits.drop (8 * (bits.length / 8))

theorem shiftIn_eq_add (acc : Byte) (b : Bool) :
    shiftIn acc b = acc <<< 1 + (BitVec.ofBool b).setWidth 8 := by
  refine (BitVec.add_eq_or_of_and_eq_zero _ _ ?_).symm
  ext i hi
  cases i <;> simp

theorem shiftIn_ofNat (v : Nat) (b : Bool) :
    shiftIn (BitVec.ofNat 8 v) b = BitVec.ofNat 8 (2 * v + b.toNat) := by
  rw [shiftIn_eq_add]
  apply BitVec.eq_of_toNat_eq
  cases b <;> simp [Nat.shiftLeft_eq] <;> omega

theorem foldl_shiftIn_ofNat (bits : List Bool) (v : Nat) :
    bits.foldl shiftIn (BitVec.ofNat 8 v) =
      BitVec.ofNat 8 (bits.foldl (fun v b => 2 * v + b.toNat) v) := by
  induction bits generalizing v with
  | nil => rfl
  | cons b bits ih => rw [List.foldl_cons, shiftIn_ofNat, ih, List.foldl_cons]

theorem accOf_concat (bits : List Bool) (b : Bool) :
    accOf (bits ++ [b]) = shiftIn (accOf bits) b := by
  simp only [accOf, List.foldl_append, List.foldl_cons, List.foldl_nil]

/-- R192: zeros behind the bits move them up. -/
theorem accOf_append_zeros (bits : List Bool) (n : Nat) :
    accOf (bits ++ List.replicate n false) = accOf bits <<< n := by
  induction n with
  | zero => simp
  | succ n ih =>
    rw [List.replicate_succ', ← List.append_assoc, accOf_concat, ih, shiftIn_eq_add,
      BitVec.shiftLeft_add]
    simp

/-- R106: byte `j` of the payload is the accumulator after its eight bits. -/
theorem packedByte_eq_accOf (bits : List Bool) (j : Nat) :
    packedByte bits j = accOf ((List.range 8).map fun k => bits.getD (8 * j + k) false) := by
  have h := foldl_shiftIn_ofNat ((List.range 8).map fun k => bits.getD (8 * j + k) false) 0
  rw [List.foldl_map (f := fun k => bits.getD (8 * j + k) false)
    (g := fun v b => 2 * v + b.toNat)] at h
  exact h.symm

/-- R106: the last byte of the payload, with zeros past the end. -/
theorem packedByte_of_last {bits : List Bool} {j : Nat} (h : bits.length ≤ 8 * j + 8) :
    packedByte bits j = accOf (bits.drop (8 * j)) <<< (8 - (bits.length - 8 * j)) := by
  rw [packedByte_eq_accOf, ← accOf_append_zeros]
  congr 1
  apply List.ext_getElem
  · simp; omega
  · intro k hk _
    by_cases hin : 8 * j + k < bits.length
    · simp [hin, Nat.lt_sub_iff_add_lt']
    · simp [List.getElem_append, hin, Nat.lt_sub_iff_add_lt']

theorem packedByte_append {bits more : List Bool} {j : Nat} (h : 8 * j + 8 ≤ bits.length) :
    packedByte (bits ++ more) j = packedByte bits j := by
  rw [packedByte_eq_accOf, packedByte_eq_accOf]
  congr 1
  refine List.map_congr_left fun k hk => ?_
  have hk : k < 8 := List.mem_range.1 hk
  exact List.getD_append _ _ _ _ (by omega)

section
variable {bits : List Bool}

theorem length_fullBytes (bits : List Bool) : (fullBytes bits).length = bits.length / 8 := by
  simp [fullBytes]

/-- A bit that does not fill a byte. -/
theorem fullBytes_concat_of_ne (b : Bool) (h : bits.length % 8 + 1 ≠ 8) :
    fullBytes (bits ++ [b]) = fullBytes bits ∧ leftBits (bits ++ [b]) = leftBits bits ++ [b] := by
  have hdiv : (bits ++ [b]).length / 8 = bits.length / 8 := by
    rw [List.length_append, List.length_singleton]; omega
  constructor
  · rw [fullBytes, fullBytes, hdiv]
    refine List.map_congr_left fun j hj => packedByte_append ?_
    have hj : j < bits.length / 8 := List.mem_range.1 hj
    omega
  · rw [leftBits, leftBits, hdiv, List.drop_append_of_le_length (by omega)]

/-- A bit that fills a byte. -/
theorem fullBytes_concat_of_eq (b : Bool) (h : bits.length % 8 + 1 = 8) :
    fullBytes (bits ++ [b]) = fullBytes bits ++ [accOf (leftBits bits ++ [b])] ∧
      leftBits (bits ++ [b]) = [] := by
  have hlen : (bits ++ [b]).length = bits.length + 1 := by simp
  have hdiv : (bits ++ [b]).length / 8 = bits.length / 8 + 1 := by omega
  constructor
  · rw [fullBytes, fullBytes, hdiv, List.range_succ, List.map_append, List.map_singleton,
      packedByte_of_last (by omega), List.drop_append_of_le_length (by omega), leftBits]
    congr 1
    · refine List.map_congr_left fun j hj => packedByte_append ?_
      have hj : j < bits.length / 8 := List.mem_range.1 hj
      omega
    · have hpad : 8 - ((bits ++ [b]).length - 8 * (bits.length / 8)) = 0 := by omega
      rw [hpad, BitVec.shiftLeft_zero]
  · rw [leftBits, hdiv]
    exact List.drop_eq_nil_of_le (by omega)

/-- R192: the payload is its full bytes and, if bits are left over, one byte with these on top. -/
theorem packed_eq : packed bits = fullBytes bits ++ if bits.length % 8 > 0 then
    [accOf (leftBits bits) <<< (8 - bits.length % 8)] else [] := by
  split
  · next h =>
    have hlen : (bits.length + 7) / 8 = bits.length / 8 + 1 := by omega
    have hmod : bits.length - 8 * (bits.length / 8) = bits.length % 8 := by omega
    rw [packed, hlen, List.range_succ, List.map_append, List.map_singleton,
      packedByte_of_last (by omega), hmod]
    rfl
  · next h =>
    have hlen : (bits.length + 7) / 8 = bits.length / 8 := by omega
    rw [packed, hlen, List.append_nil]
    rfl

end

end Sys2Proof.Machine
end

section
/-! PROOFS. `BP_PACK` (44_bit_packer_unpacker.md R191 to R194): after any number of bits the sink
holds the bytes they fill and the scratch the bits left over (O37, O38, O39). -/

namespace Sys2Proof.Machine

/-! The bits of one code (R191). -/

/-- R191's inner loop on `bits` where the bits `done` are already packed. -/
def packFrom (s : State) (pos : Nat) (done bits : List Bool) : Res (Byte × Nat) :=
  packBits bits (accOf (leftBits done)) (done.length % 8) (moved s pos (fullBytes done))

section
variable {s : State} {pos g : Nat} {done bits : List Bool} {b : Bool}

theorem packFrom_nil : packFrom s pos done [] =
    .ok (accOf (leftBits done), done.length % 8) (moved s pos (fullBytes done)) := rfl

theorem packFrom_cons : packFrom s pos done (b :: bits) =
    if done.length % 8 + 1 = 8 then
      (snkPut (accOf (leftBits done ++ [b])) (moved s pos (fullBytes done))).bind fun _ u =>
        packBits bits 0 0 u
    else packBits bits (accOf (leftBits done ++ [b])) (done.length % 8 + 1)
      (moved s pos (fullBytes done)) := by
  rw [accOf_concat]
  rfl

/-- A bit is packed where the sink takes the byte it may fill. -/
theorem packFrom_cons_of_room (h : RoomFor ((done.length + 1) / 8) s) :
    packFrom s pos done (b :: bits) = packFrom s pos (done ++ [b]) bits := by
  have hlen : (done ++ [b]).length = done.length + 1 := by simp
  rw [packFrom_cons, packFrom, hlen]
  by_cases hfill : done.length % 8 + 1 = 8
  · obtain ⟨hfull, hleft⟩ := fullBytes_concat_of_eq b hfill
    have hroom : RoomFor ((fullBytes done).length + 1) s :=
      h.mono (by rw [length_fullBytes]; omega)
    have hmod : (done.length + 1) % 8 = 0 := by omega
    rw [if_pos hfill, snkPut_moved_of_room _ hroom, Res.bind_ok, hfull, hleft, hmod]
    rfl
  · obtain ⟨hfull, hleft⟩ := fullBytes_concat_of_ne b hfill
    have hmod : (done.length + 1) % 8 = done.length % 8 + 1 := by omega
    rw [if_neg hfill, hfull, hleft, hmod]

/-- The bit that fills a byte fails where the sink is full. -/
theorem packFrom_cons_of_full (h : sinkRoom s = some g) (hg : done.length + 1 = 8 * (g + 1)) :
    packFrom s pos done (b :: bits) =
      .raised .fileAccessFailure (moved s pos (fullBytes done)) := by
  have hfill : done.length % 8 + 1 = 8 := by omega
  have hroom : sinkRoom s = some (fullBytes done).length := by
    rw [h, length_fullBytes]; congr 1; omega
  rw [packFrom_cons, if_pos hfill, snkPut_moved_of_full _ hroom, Res.bind_raised]

theorem packFrom_of_room (h : RoomFor ((done ++ bits).length / 8) s) :
    packFrom s pos done bits = packFrom s pos (done ++ bits) [] := by
  induction bits generalizing done with
  | nil => rw [List.append_nil]
  | cons b bits ih =>
    have hsplit : done ++ b :: bits = done ++ [b] ++ bits := by simp
    rw [hsplit] at h ⊢
    rw [packFrom_cons_of_room (h.mono (Nat.div_le_div_right (by simp))), ih h]

theorem packFrom_of_full (h : sinkRoom s = some g) (hlt : done.length < 8 * (g + 1))
    (hle : 8 * (g + 1) ≤ (done ++ bits).length) :
    ∃ out, out.length = g ∧
      packFrom s pos done bits = .raised .fileAccessFailure (moved s pos out) := by
  induction bits generalizing done with
  | nil =>
    rw [List.append_nil] at hle
    omega
  | cons b bits ih =>
    by_cases hg : done.length + 1 = 8 * (g + 1)
    · exact ⟨fullBytes done, by rw [length_fullBytes]; omega, packFrom_cons_of_full h hg⟩
    · have hsplit : done ++ b :: bits = done ++ [b] ++ bits := by simp
      rw [packFrom_cons_of_room (roomFor_of_sinkRoom h (by omega))]
      exact ih (by simp; omega) (hsplit ▸ hle)

end

/-! The loop over the source (R191). -/

/-- R191's outer loop where the first `k` source bytes are packed. -/
def packPass (code : CodeTable) (s : State) (k : Nat) : Res (Byte × Nat) :=
  let done := (s.src.take k).flatMap (tableGet code)
  packLoop code (s.src.length - k + 1) (accOf (leftBits done)) (done.length % 8)
    (moved s k (fullBytes done))

section
variable {s : State} {code : CodeTable} {k : Nat}

theorem bpPackBody_of_code (h : s.code = some code) :
    bpPackBody s = (packPass code s 0).bind fun p u => putPartial p.1 p.2 u := by
  simp only [bpPackBody, h]
  rw [packPass, List.take_zero, List.flatMap_nil, Nat.sub_zero]
  have hnil : fullBytes [] = [] := rfl
  rw [hnil, moved_nil]
  rfl

theorem packPass_of_err (h : s.srcBound = false ∨ allows s.srcFailAt (k + 1) = false) :
    packPass code s k = .raised .fileAccessFailure
      (moved s k (fullBytes ((s.src.take k).flatMap (tableGet code)))) := by
  simp only [packPass, packLoop, srcNext_moved_of_err h]

section
variable (hb : s.srcBound = true) (hf : allows s.srcFailAt (k + 1) = true)
include hb hf

theorem packPass_of_end (hk : k = s.src.length) :
    packPass code s k = packFrom s k (s.src.flatMap (tableGet code)) [] := by
  simp only [packPass, packLoop, srcNext_moved_of_end hb hf hk.ge]
  rw [List.take_of_length_le hk.ge]
  rfl

/-- R194: a byte with no code. -/
theorem packPass_of_uncoded (hk : k < s.src.length) (hc : tableGet code s.src[k] = []) :
    packPass code s k = .raised .invalidResource
      (moved s (k + 1) (fullBytes ((s.src.take k).flatMap (tableGet code)))) := by
  simp only [packPass, packLoop, srcNext_moved_of_byte hb hf (List.getElem?_eq_getElem hk),
    hc, List.length_nil, if_true]

theorem packPass_of_coded (hk : k < s.src.length) (hc : tableGet code s.src[k] ≠ []) :
    packPass code s k =
      (packFrom s (k + 1) ((s.src.take k).flatMap (tableGet code)) (tableGet code s.src[k])).bind
        fun p u => packLoop code (s.src.length - (k + 1) + 1) p.1 p.2 u := by
  have hne : (tableGet code s.src[k]).length ≠ 0 := fun h => hc (List.length_eq_zero_iff.1 h)
  have hpass : s.src.length - k = s.src.length - (k + 1) + 1 := by omega
  simp only [packPass, packLoop, srcNext_moved_of_byte hb hf (List.getElem?_eq_getElem hk),
    if_neg hne, hpass]
  rfl

end

theorem flatMap_take_succ {α : Type} (c : Byte → List α) {src : List Byte} (hk : k < src.length) :
    (src.take (k + 1)).flatMap c = (src.take k).flatMap c ++ c src[k] := by
  rw [← List.take_concat_get' _ _ hk, List.flatMap_append, List.flatMap_singleton]

/-- After `k` passes the codes of the first `k` bytes are packed. -/
theorem packPass_prefix (hb : s.srcBound = true) (hf : allows s.srcFailAt k = true)
    (hk : k ≤ s.src.length) (hc : ∀ b ∈ s.src.take k, tableGet code b ≠ [])
    (hroom : RoomFor (((s.src.take k).flatMap (tableGet code)).length / 8) s) :
    packPass code s 0 = packPass code s k := by
  induction k with
  | zero => rfl
  | succ k ih =>
    have htake : s.src.take (k + 1) = s.src.take k ++ [s.src[k]] :=
      (List.take_concat_get' _ _ hk).symm
    have hcodes := flatMap_take_succ (tableGet code) hk
    rw [htake] at hc
    rw [hcodes] at hroom
    rw [ih (allows_mono k.le_succ hf) (Nat.le_of_succ_le hk)
        (fun b hb => hc b (List.mem_append_left _ hb))
        (hroom.mono (Nat.div_le_div_right (by simp))),
      packPass_of_coded hb hf hk (hc _ (List.mem_append_right _ (List.mem_singleton_self _))),
      packFrom_of_room hroom, packFrom_nil, Res.bind_ok, ← hcodes]
    rfl

/-- A failure of the loop after bytes that the sink took is the command's. -/
theorem exec_bpPack_of_raised {e : ErrorKind} {out : List Byte} (h : s.code = some code)
    (hroom : RoomFor out.length s) (hp : packPass code s 0 = .raised e (moved s k out)) :
    exec .bpPack s = .next (failureEntry e { s with srcPos := k }) := by
  rw [exec_of_body_raised (k := e) (u := moved s k out), failureEntry_moved e hroom]
  rw [commandBody, bpPackBody_of_code h, hp, Res.bind_raised]

/-- R191, R192: at the end of a source whose bytes have codes, what is left over is put. -/
theorem bpPackBody_of_serves (h : s.code = some code) (hs : SourceServes s)
    (hc : ∀ b ∈ s.src, tableGet code b ≠ [])
    (hroom : RoomFor ((s.src.flatMap (tableGet code)).length / 8) s) :
    bpPackBody s =
      putPartial (accOf (leftBits (s.src.flatMap (tableGet code))))
        ((s.src.flatMap (tableGet code)).length % 8)
        (moved s s.src.length (fullBytes (s.src.flatMap (tableGet code)))) := by
  obtain ⟨hb, hf⟩ := hs
  rw [bpPackBody_of_code h, packPass_prefix (k := s.src.length) hb (allows_mono (Nat.le_succ _) hf)
    le_rfl (by rwa [List.take_length]) (by rwa [List.take_length]), packPass_of_end hb hf rfl,
    packFrom_nil, Res.bind_ok]

end

/-! The last byte (R192). -/

section
variable {s : State} {pos g : Nat} {bits : List Bool}

theorem putPartial_of_room (h : RoomFor ((bits.length + 7) / 8) s) :
    putPartial (accOf (leftBits bits)) (bits.length % 8) (moved s pos (fullBytes bits)) =
      .ok () (moved s pos (packed bits)) := by
  rw [packed_eq, putPartial]
  by_cases hleft : bits.length % 8 > 0
  · rw [if_pos hleft, if_pos hleft]
    exact snkPut_moved_of_room _ (h.mono (by rw [length_fullBytes]; omega))
  · rw [if_neg hleft, if_neg hleft, List.append_nil]

theorem putPartial_of_full (h : sinkRoom s = some g) (hlt : 8 * g < bits.length)
    (hle : bits.length < 8 * (g + 1)) :
    putPartial (accOf (leftBits bits)) (bits.length % 8) (moved s pos (fullBytes bits)) =
      .raised .fileAccessFailure (moved s pos (fullBytes bits)) := by
  have hroom : sinkRoom s = some (fullBytes bits).length := by
    rw [h, length_fullBytes]; congr 1; omega
  rw [putPartial, if_pos (by omega), snkPut_moved_of_full _ hroom]

end

/-! The command. -/

/-- Settles O37: the loop leaves the full bytes in the sink, and the last put makes them the whole
payload. -/
theorem bpPackAppendsPayload : Obligations.BpPackAppendsPayload := by
  intro s code hcode hs hc hsink
  have hroom := roomFor_of_sinkTakes hsink
  rw [packed, List.length_map, List.length_range] at hroom
  refine exec_of_body_ok (u := moved s s.src.length (packed (s.src.flatMap (tableGet code)))) ?_
  rw [commandBody, bpPackBody_of_serves hcode hs hc (hroom.mono (by omega)),
    putPartial_of_room hroom]

/-- Settles O38: the loop packs the bytes before the one with no code and fails there. -/
theorem bpPackRejectsUncodedByte : Obligations.BpPackRejectsUncodedByte := by
  intro s code good b more hcode hb hf hsrc hgood hbad hbound hsink
  have hroom (n : Nat) : RoomFor n s := fun g hg => by simp [sinkRoom, hbound, hsink] at hg
  have htake : s.src.take good.length = good := by rw [hsrc, List.take_left]
  have hk : good.length < s.src.length := by simp [hsrc]
  have hbyte : s.src[good.length] = b := by simp [hsrc]
  have hfail := packPass_of_uncoded (code := code) hb hf hk (by rw [hbyte, hbad])
  rw [← packPass_prefix hb (allows_mono (Nat.le_succ _) hf) hk.le (by rwa [htake]) (hroom _)]
    at hfail
  exact exec_bpPack_of_raised hcode (hroom _) hfail

section
variable {s : State} {code : CodeTable} (hcode : s.code = some code)
include hcode

/-- 20_memory.md R63: no source bound. -/
theorem exec_bpPack_of_unbound (hb : s.srcBound = false) :
    exec .bpPack s = .next (failureEntry .fileAccessFailure { s with srcPos := 0 }) := by
  refine exec_bpPack_of_raised hcode ?_ (packPass_of_err (.inl hb))
  rw [length_fullBytes, List.take_zero, List.flatMap_nil]
  exact fun g _ => Nat.zero_le g

/-- 20_memory.md R63: the read at the failure point fails. -/
theorem exec_bpPack_of_read_failure {f : Nat} (hb : s.srcBound = true)
    (hf : s.srcFailAt = some f) (hlen : f ≤ s.src.length)
    (hc : ∀ b ∈ s.src.take f, tableGet code b ≠ [])
    (hroom : RoomFor (((s.src.take f).flatMap (tableGet code)).length / 8) s) :
    exec .bpPack s = .next (failureEntry .fileAccessFailure { s with srcPos := f }) := by
  refine exec_bpPack_of_raised hcode (by rwa [← length_fullBytes] at hroom) ?_
  rw [packPass_prefix hb (by simp [hf, allows]) hlen hc hroom]
  exact packPass_of_err (.inr (by simp [hf, allows]))

/-- 20_memory.md R65: the put of a byte that the code of source byte `k` fills fails. -/
theorem exec_bpPack_of_full_byte {g k : Nat} (hb : s.srcBound = true)
    (hg : sinkRoom s = some g) (hk : k < s.src.length)
    (hc : ∀ b ∈ s.src.take (k + 1), tableGet code b ≠ [])
    (hlt : ((s.src.take k).flatMap (tableGet code)).length < 8 * (g + 1))
    (hle : 8 * (g + 1) ≤ ((s.src.take (k + 1)).flatMap (tableGet code)).length)
    (hf : allows s.srcFailAt (k + 1) = true) :
    exec .bpPack s = .next (failureEntry .fileAccessFailure { s with srcPos := k + 1 }) := by
  rw [flatMap_take_succ _ hk] at hle
  rw [← List.take_concat_get' _ _ hk] at hc
  obtain ⟨out, hout, hfail⟩ := packFrom_of_full (pos := k + 1) hg hlt hle
  refine exec_bpPack_of_raised hcode (out := out) (roomFor_of_sinkRoom hg hout.le) ?_
  rw [packPass_prefix hb (allows_mono k.le_succ hf) hk.le
      (fun b hb => hc b (List.mem_append_left _ hb)) (roomFor_of_sinkRoom hg (by omega)),
    packPass_of_coded hb hf hk (hc _ (List.mem_append_right _ (List.mem_singleton_self _))), hfail,
    Res.bind_raised]

/-- 20_memory.md R65, R192: the put of the last partial byte fails. -/
theorem exec_bpPack_of_full_partial {g : Nat} (hs : SourceServes s) (hg : sinkRoom s = some g)
    (hc : ∀ b ∈ s.src, tableGet code b ≠ [])
    (hlt : 8 * g < (s.src.flatMap (tableGet code)).length)
    (hle : (s.src.flatMap (tableGet code)).length < 8 * (g + 1)) :
    exec .bpPack s =
      .next (failureEntry .fileAccessFailure { s with srcPos := s.src.length }) := by
  have hroom : RoomFor ((s.src.flatMap (tableGet code)).length / 8) s :=
    roomFor_of_sinkRoom hg (by omega)
  rw [← failureEntry_moved _ (by rwa [← length_fullBytes] at hroom)]
  refine exec_of_body_raised ?_
  rw [commandBody, bpPackBody_of_serves hcode hs hc hroom, putPartial_of_full hg hlt hle]

end

/-- Settles O39: the loop reads no byte, or the bytes before the failure point, or fills one byte
more than the sink takes, at a source byte or behind the last. -/
theorem bpPackStreamFailures : Obligations.BpPackStreamFailures := by
  intro s code hcode
  refine ⟨exec_bpPack_of_unbound hcode, fun f => exec_bpPack_of_read_failure hcode, ?_⟩
  intro g p hb hg hp hlen hc hlt hend
  obtain ⟨k, rfl⟩ : ∃ k, p = k + 1 := ⟨p - 1, by omega⟩
  rcases hend with ⟨hle, hf⟩ | ⟨hp, hgt, hle, hf⟩
  · exact exec_bpPack_of_full_byte hcode hb hg hlen hc hlt hle hf
  · rw [hp] at hc hf ⊢
    rw [List.take_length] at hc
    exact exec_bpPack_of_full_partial hcode ⟨hb, hf⟩ hg hc hgt hle

end Sys2Proof.Machine
end

section
/-! PROOFS. `BU_UNPACK` bit by bit (44_bit_packer_unpacker.md R195 to R198): a walk from the root
takes the steps of a path, and at its leaf the symbol is put (O40, O41, O42). -/

namespace Sys2Proof.Machine

/-! The bits of a byte list (20_memory.md R71). -/

theorem bitString_append (bs cs : List Byte) :
    bitString (bs ++ cs) = bitString bs ++ bitString cs := by
  simp only [bitString, List.flatMap_append]

theorem bitString_cons (b : Byte) (bs : List Byte) :
    bitString (b :: bs) = bitsMsbFirst b ++ bitString bs := rfl

theorem length_bitString (bs : List Byte) : (bitString bs).length = 8 * bs.length := by
  induction bs with
  | nil => rfl
  | cons b bs ih => simp [bitString_cons, bitsMsbFirst, ih, Nat.mul_add]

/-- The eight bits of byte `k`. -/
theorem bitString_slice {bs : List Byte} {k : Nat} {b : Byte} (h : bs[k]? = some b) :
    ((bitString bs).take (8 * (k + 1))).drop (8 * k) = bitsMsbFirst b := by
  obtain ⟨hk, rfl⟩ := List.getElem?_eq_some_iff.1 h
  have hsplit : bs = bs.take k ++ bs[k] :: bs.drop (k + 1) := by simp
  have hlen : (bitString (bs.take k)).length = 8 * k := by
    rw [length_bitString, List.length_take_of_le hk.le]
  have hbits : bitString bs =
      bitString (bs.take k) ++ (bitsMsbFirst bs[k] ++ bitString (bs.drop (k + 1))) := by
    conv_lhs => rw [hsplit]
    rw [bitString_append, bitString_cons]
  rw [List.drop_take, hbits, List.drop_left' hlen]
  exact List.take_left' (by simp [bitsMsbFirst]; omega)

/-! A walk down the tree (R196). -/

section
variable {tree : List FinalNode} {i j c : Nat} {b : Bool} {p : List Bool} {n : FinalNode}

theorem eq_of_reach_nil (h : reach tree i [] = some j) : i = j :=
  Option.some.inj (Option.ite_none_right_eq_some.1 h).2

theorem childAt_eq_some (h : childAt tree i b = some c) : ∃ n, tree[i]? = some n ∧
    (if b then n.right else n.left) ≠ Config.noChild ∧
      (if b then n.right else n.left).toNat = c := by
  obtain ⟨n, hn⟩ : ∃ n, tree[i]? = some n :=
    ⟨_, List.getElem?_eq_getElem (lt_length_of_childAt h)⟩
  rw [childAt_of_node hn, Option.ite_none_left_eq_some] at h
  exact ⟨n, hn, h.1, Option.some.inj h.2⟩

/-- A node with a child is no leaf. -/
theorem not_isLeaf_of_childAt (hn : tree[i]? = some n) (hc : childAt tree i b = some c) :
    n.isLeaf = false := by
  by_contra hleaf
  rw [childAt_of_isLeaf hn (by simpa using hleaf)] at hc
  cases hc

/-- A path to a node that is no leaf starts at one. -/
theorem reach_from_internal (hp : reach tree i p = some j) (hn : tree[j]? = some n)
    (hint : n.isLeaf = false) : ∃ n', tree[i]? = some n' ∧ n'.isLeaf = false := by
  cases p with
  | nil =>
    exact ⟨n, eq_of_reach_nil hp ▸ hn, hint⟩
  | cons b p =>
    rw [reach_cons] at hp
    obtain ⟨c, hc, -⟩ := Option.bind_eq_some_iff.1 hp
    obtain ⟨n', hn', -⟩ := childAt_eq_some hc
    exact ⟨n', hn', not_isLeaf_of_childAt hn' hc⟩

/-- A path to a leaf ends with the step from a node to its child. -/
theorem leafSym_last_step {sym : Byte} (h : leafSym tree i p = some sym) :
    ∃ q b j c, p = q ++ [b] ∧ reach tree i q = some j ∧ childAt tree j b = some c ∧
      LeafOf tree c sym := by
  obtain ⟨hne, c, hp, hleaf⟩ := leafSym_eq_some.1 h
  obtain ⟨q, b, rfl⟩ := (List.eq_nil_or_concat' p).resolve_left hne
  rw [reach_append] at hp
  obtain ⟨j, hq, hb⟩ := Option.bind_eq_some_iff.1 hp
  rw [reach_cons] at hb
  obtain ⟨c', hc, hc'⟩ := Option.bind_eq_some_iff.1 hb
  exact ⟨q, b, j, c, rfl, hq, eq_of_reach_nil hc' ▸ hc, hleaf⟩

/-- Where a walk stands that has not reached a leaf. -/
theorem midway_eq_some (h : midway tree i p = some n) :
    ∃ j, reach tree i p = some j ∧ tree[j]? = some n ∧ (p = [] ∨ n.isLeaf = false) := by
  unfold midway at h
  split at h
  · cases h
  · next n' hfollow =>
    rw [follow_eq_reach] at hfollow
    obtain ⟨j, hp, hn⟩ := Option.bind_eq_some_iff.1 hfollow
    obtain ⟨hor, hnn⟩ := Option.ite_none_right_eq_some.1 h
    exact ⟨j, hp, Option.some.inj hnn ▸ hn, by simpa [Option.some.inj hnn] using hor⟩

end

/-! One step of a walk (R196). -/

/-- An entry that the last `SER_READ` loaded is read as it is. -/
theorem ftreeNode_of_loaded {nodes : List FinalNode} {t ctr i : Nat} {n : FinalNode}
    (ht : t = nodes.length) (h : nodes[i]? = some n) : ftreeNode nodes t ctr i = n := by
  obtain ⟨hi, -⟩ := List.getElem?_eq_some_iff.1 h
  rw [ftreeNode, if_pos (ht ▸ hi), h, Option.getD_some]

section
variable {f : Nat → FinalNode} {rt total cur e c : Nat} {b : Bool} {bits : List Bool} {u : State}

theorem walkBits_of_missing (h : (if b then (f cur).right else (f cur).left) = Config.noChild) :
    walkBits f rt total (b :: bits) cur e u = .raised .invalidResource u := by
  rw [walkBits]
  exact if_pos h

theorem walkBits_of_child {tree : List FinalNode} {n : FinalNode}
    (hread : ∀ i n, tree[i]? = some n → f i = n) (hchild : childAt tree cur b = some c)
    (hn : tree[c]? = some n) : walkBits f rt total (b :: bits) cur e u =
      if n.isLeaf then
        (snkPut n.sym u).bind fun _ u =>
          if e + 1 = total then .ok (rt, e + 1) u else walkBits f rt total bits rt (e + 1) u
      else walkBits f rt total bits c e u := by
  obtain ⟨n₀, h₀, hl, rfl⟩ := childAt_eq_some hchild
  rw [walkBits]
  simp only [hread _ _ h₀, if_neg hl, hread _ _ hn]

theorem unpackLoop_of_done {n : Nat} (h : total ≤ e) :
    unpackLoop f rt total (n + 1) cur e u = .ok () u := by
  rw [unpackLoop, if_neg (Nat.not_lt.2 h)]

end

/-! The loop (R196) at any bit. -/

/-- The bits from the source position on. -/
def bitsAhead (s : State) : List Bool :=
  bitString (s.src.drop s.srcPos)

/-- R196 where the walk of the first `m` bits ahead stands at node `cur` and the symbols `out` are
out: what is left of the byte with the last of these bits, then the bytes behind it. -/
def unpackAt (s : State) (nodes : List FinalNode) (m cur : Nat) (out : List Byte) : Res Unit :=
  let nodeAt := ftreeNode nodes s.treeSize.toNat s.freeCtr
  if out.length < s.totalChars.toNat then
    (walkBits nodeAt (s.treeSize.toNat - 1) s.totalChars.toNat
      (((bitsAhead s).take (8 * ((m + 7) / 8))).drop m) cur out.length
      (moved s (s.srcPos + (m + 7) / 8) out)).bind fun p u =>
        unpackLoop nodeAt (s.treeSize.toNat - 1) s.totalChars.toNat
          (s.src.length + 1 - (m + 7) / 8) p.1 p.2 u
  else .ok () (moved s (s.srcPos + (m + 7) / 8) out)

section
variable {s : State} {nodes : List FinalNode} {m k cur : Nat} {out : List Byte} {b : Bool}
  {more : List Bool}

theorem unpackAt_of_done (h : s.totalChars.toNat ≤ out.length) :
    unpackAt s nodes m cur out = .ok () (moved s (s.srcPos + (m + 7) / 8) out) :=
  if_neg (Nat.not_lt.2 h)

section
variable (hlt : out.length < s.totalChars.toNat)
include hlt

/-- Between two bytes. -/
theorem unpackAt_of_byte : unpackAt s nodes (8 * k) cur out =
    unpackLoop (ftreeNode nodes s.treeSize.toNat s.freeCtr) (s.treeSize.toNat - 1)
      s.totalChars.toNat (s.src.length + 1 - k) cur out.length (moved s (s.srcPos + k) out) := by
  have hk : (8 * k + 7) / 8 = k := by omega
  have hnil : ((bitsAhead s).take (8 * k)).drop (8 * k) = [] :=
    List.drop_eq_nil_of_le (by simp)
  rw [unpackAt, if_pos hlt, hk, hnil]
  rfl

theorem unpackAt_of_err (hk : k ≤ s.src.length)
    (h : s.srcBound = false ∨ allows s.srcFailAt (s.srcPos + k + 1) = false) :
    unpackAt s nodes (8 * k) cur out =
      .raised .fileAccessFailure (moved s (s.srcPos + k) out) := by
  have hpass : s.src.length + 1 - k = s.src.length - k + 1 := by omega
  rw [unpackAt_of_byte hlt, hpass, unpackLoop, if_pos hlt, srcNext_moved_of_err h]

theorem unpackAt_of_end (hk : k ≤ s.src.length) (hb : s.srcBound = true)
    (hf : allows s.srcFailAt (s.srcPos + k + 1) = true) (hend : s.src.length ≤ s.srcPos + k) :
    unpackAt s nodes (8 * k) cur out =
      .raised .unexpectedEndOfInput (moved s (s.srcPos + k) out) := by
  have hpass : s.src.length + 1 - k = s.src.length - k + 1 := by omega
  rw [unpackAt_of_byte hlt, hpass, unpackLoop, if_pos hlt, srcNext_moved_of_end hb hf hend]

end

theorem buUnpackBody_eq_unpackAt (h : s.ftree = some nodes) :
    buUnpackBody s = unpackAt s nodes 0 (s.treeSize.toNat - 1) [] := by
  have hstart : moved s (s.srcPos + 0) [] = s := moved_nil s s.srcPos
  rw [buUnpackBody_of_ftree h]
  by_cases htot : 0 < s.totalChars.toNat
  · have hread := unpackAt_of_byte (s := s) (nodes := nodes) (k := 0)
      (cur := s.treeSize.toNat - 1) (out := []) htot
    rw [hstart] at hread
    exact hread.symm
  · have htot := Nat.not_lt.1 htot
    rw [unpackAt_of_done htot, unpackLoop_of_done htot]
    exact congrArg _ hstart.symm

end

/-! One bit (R196). -/

theorem take_drop_cons {α : Type} {l more : List α} {a : α} {m n : Nat} (h : l.drop m = a :: more)
    (hn : m < n) : (l.take n).drop m = a :: (l.take n).drop (m + 1) := by
  have hmore : l.drop (m + 1) = more := by rw [← List.drop_drop, h]; rfl
  obtain ⟨d, rfl⟩ : ∃ d, n = m + 1 + d := Nat.exists_eq_add_of_le hn
  have hd : m + 1 + d - m = d + 1 := by omega
  rw [List.drop_take, List.drop_take, h, hmore, hd, Nat.add_sub_cancel_left, List.take_succ_cons]

section
variable {s : State} {nodes : List FinalNode} {m cur : Nat} {out : List Byte} {b : Bool}
  {more : List Bool}

/-- A bit ahead is in one of the source's bytes. -/
theorem byte_of_bitsAhead (hbits : (bitsAhead s).drop m = b :: more) :
    s.srcPos + m / 8 < s.src.length := by
  have hlt : m < (bitsAhead s).length := by
    by_contra hle
    rw [List.drop_eq_nil_of_le (Nat.not_lt.1 hle)] at hbits
    cases hbits
  rw [bitsAhead, length_bitString, List.length_drop] at hlt
  omega

section
variable (hlt : out.length < s.totalChars.toNat) (hb : s.srcBound = true)
  (hf : allows s.srcFailAt (s.srcPos + (m + 1 + 7) / 8) = true)
  (hbits : (bitsAhead s).drop m = b :: more)
include hlt hb hf hbits

/-- The next bit is taken from the byte at hand or from the next one. -/
theorem unpackAt_read : unpackAt s nodes m cur out =
    (walkBits (ftreeNode nodes s.treeSize.toNat s.freeCtr) (s.treeSize.toNat - 1)
      s.totalChars.toNat (b :: ((bitsAhead s).take (8 * ((m + 1 + 7) / 8))).drop (m + 1)) cur
      out.length (moved s (s.srcPos + (m + 1 + 7) / 8) out)).bind fun p u =>
        unpackLoop (ftreeNode nodes s.treeSize.toNat s.freeCtr) (s.treeSize.toNat - 1)
          s.totalChars.toNat (s.src.length + 1 - (m + 1 + 7) / 8) p.1 p.2 u := by
  have hbyte := byte_of_bitsAhead hbits
  rw [← take_drop_cons hbits (by omega)]
  by_cases hm : m % 8 = 0
  · obtain ⟨k, rfl⟩ : ∃ k, m = 8 * k := ⟨m / 8, by omega⟩
    have hk : (8 * k + 1 + 7) / 8 = k + 1 := by omega
    have hdiv : 8 * k / 8 = k := by omega
    rw [hdiv] at hbyte
    rw [hk] at hf ⊢
    have hget : (s.src.drop s.srcPos)[k]? = some s.src[s.srcPos + k] := by
      rw [List.getElem?_drop, List.getElem?_eq_getElem hbyte]
    have hpass : s.src.length + 1 - k = s.src.length + 1 - (k + 1) + 1 := by omega
    rw [unpackAt_of_byte hlt, hpass, unpackLoop, if_pos hlt,
      srcNext_moved_of_byte (pos := s.srcPos + k) hb hf (List.getElem?_eq_getElem hbyte),
      bitsAhead, bitString_slice hget]
    rfl
  · have hk : (m + 7) / 8 = (m + 1 + 7) / 8 := by omega
    rw [unpackAt, if_pos hlt, hk]

section
variable {n : FinalNode} (hsize : s.treeSize.toNat = nodes.length) (hn : nodes[cur]? = some n)
include hsize hn

/-- R198: a missing child. -/
theorem unpackAt_of_missing (hc : (if b then n.right else n.left) = Config.noChild) :
    unpackAt s nodes m cur out =
      .raised .invalidResource (moved s (s.srcPos + (m + 1 + 7) / 8) out) := by
  rw [unpackAt_read hlt hb hf hbits, walkBits_of_missing, Res.bind_raised]
  rwa [ftreeNode_of_loaded hsize hn]

end

section
variable {c : Nat} {n : FinalNode} (hsize : s.treeSize.toNat = nodes.length)
  (hchild : childAt nodes cur b = some c) (hn : nodes[c]? = some n)
include hsize hchild hn

/-- A step to an internal node. -/
theorem unpackAt_of_internal (hint : n.isLeaf = false) :
    unpackAt s nodes m cur out = unpackAt s nodes (m + 1) c out := by
  rw [unpackAt_read hlt hb hf hbits, walkBits_of_child (fun _ _ => ftreeNode_of_loaded hsize)
    hchild hn, hint, if_neg Bool.false_ne_true, unpackAt, if_pos hlt]

/-- A step to a leaf, whose symbol is put. -/
theorem unpackAt_of_leaf (hleaf : n.isLeaf = true) :
    unpackAt s nodes m cur out =
      (snkPut n.sym (moved s (s.srcPos + (m + 1 + 7) / 8) out)).bind fun _ _ =>
        unpackAt s nodes (m + 1) (s.treeSize.toNat - 1) (out ++ [n.sym]) := by
  have hbyte := byte_of_bitsAhead hbits
  have hlen : (out ++ [n.sym]).length = out.length + 1 := by simp
  rw [unpackAt_read hlt hb hf hbits, walkBits_of_child (fun _ _ => ftreeNode_of_loaded hsize)
    hchild hn, if_pos hleaf]
  rcases snkPut_cases n.sym (moved s (s.srcPos + (m + 1 + 7) / 8) out) with ⟨-, hput⟩ | ⟨-, hput⟩
  · have hmoved : ({ moved s (s.srcPos + (m + 1 + 7) / 8) out with
        snk := (moved s (s.srcPos + (m + 1 + 7) / 8) out).snk ++ [n.sym] } : State) =
        moved s (s.srcPos + (m + 1 + 7) / 8) (out ++ [n.sym]) := by
      simp only [moved, List.append_assoc]
    rw [hput, Res.bind_ok, Res.bind_ok, hmoved]
    by_cases hlast : out.length + 1 = s.totalChars.toNat
    · have hpass : s.src.length + 1 - (m + 1 + 7) / 8 =
        s.src.length - (m + 1 + 7) / 8 + 1 := by omega
      rw [if_pos hlast, Res.bind_ok, unpackAt_of_done (by omega), hpass,
        unpackLoop_of_done hlast.ge]
    · rw [if_neg hlast, unpackAt, if_pos (by omega), hlen]
  · rw [hput, Res.bind_raised, Res.bind_raised, Res.bind_raised]

end

end

end

/-! Walks from the root (R195, R196). -/

section
variable {s : State} {nodes : List FinalNode} {m : Nat} {out : List Byte} {more : List Bool}

theorem drop_of_append {α : Type} {l p q : List α} {m : Nat} (h : l.drop m = p ++ q) :
    l.drop (m + p.length) = q := by
  rw [← List.drop_drop, h, List.drop_left]

section
variable (hsize : s.treeSize.toNat = nodes.length) (hb : s.srcBound = true)
include hsize hb

/-- The steps of a path to a node that is no leaf. -/
theorem unpackAt_walk {i j : Nat} {p : List Bool} {n : FinalNode}
    (hlt : out.length < s.totalChars.toNat) (hp : reach nodes i p = some j)
    (hn : nodes[j]? = some n) (hint : p = [] ∨ n.isLeaf = false)
    (hbits : (bitsAhead s).drop m = p ++ more)
    (hf : allows s.srcFailAt (s.srcPos + (m + p.length + 7) / 8) = true) :
    unpackAt s nodes m i out = unpackAt s nodes (m + p.length) j out := by
  induction p generalizing i m with
  | nil =>
    rw [eq_of_reach_nil hp]
    rfl
  | cons b p ih =>
    have hint : n.isLeaf = false := hint.resolve_left (List.cons_ne_nil _ _)
    have hlen : m + (b :: p).length = m + 1 + p.length := by rw [List.length_cons]; omega
    rw [reach_cons] at hp
    obtain ⟨c, hc, hp⟩ := Option.bind_eq_some_iff.1 hp
    obtain ⟨n', hn', hint'⟩ := reach_from_internal hp hn hint
    rw [hlen] at hf ⊢
    rw [unpackAt_of_internal hlt hb (allows_mono (by omega) hf) hbits hsize hc hn' hint']
    exact ih hp (.inr hint) (drop_of_append (p := [b]) hbits) hf

/-- A path to a leaf: its symbol is put. -/
theorem unpackAt_path {p : List Bool} {sym : Byte}
    (hlt : out.length < s.totalChars.toNat)
    (hp : leafSym nodes (nodes.length - 1) p = some sym)
    (hbits : (bitsAhead s).drop m = p ++ more)
    (hf : allows s.srcFailAt (s.srcPos + (m + p.length + 7) / 8) = true) :
    unpackAt s nodes m (nodes.length - 1) out =
      (snkPut sym (moved s (s.srcPos + (m + p.length + 7) / 8) out)).bind fun _ _ =>
        unpackAt s nodes (m + p.length) (nodes.length - 1) (out ++ [sym]) := by
  obtain ⟨q, b, j, c, rfl, hq, hc, n, hn, hleaf, rfl⟩ := leafSym_last_step hp
  obtain ⟨n₀, h₀, -⟩ := childAt_eq_some hc
  have hlen : m + (q ++ [b]).length = m + q.length + 1 := by simp; omega
  rw [hlen] at hf ⊢
  rw [List.append_assoc] at hbits
  rw [unpackAt_walk hsize hb hlt hq h₀ (.inr (not_isLeaf_of_childAt h₀ hc)) hbits
      (allows_mono (by omega) hf),
    unpackAt_of_leaf hlt hb hf (drop_of_append hbits) hsize hc hn hleaf, hsize]

/-- Paths to leaves, one after another. -/
theorem unpackAt_paths {paths : List (List Bool)} {syms : List Byte}
    (hpaths : paths.map (leafSym nodes (nodes.length - 1)) = syms.map some)
    (hle : out.length + syms.length ≤ s.totalChars.toNat)
    (hroom : RoomFor (out.length + syms.length) s)
    (hbits : (bitsAhead s).drop m = paths.flatten ++ more)
    (hf : allows s.srcFailAt (s.srcPos + (m + paths.flatten.length + 7) / 8) = true) :
    unpackAt s nodes m (nodes.length - 1) out =
      unpackAt s nodes (m + paths.flatten.length) (nodes.length - 1) (out ++ syms) := by
  induction paths generalizing syms m out with
  | nil =>
    rw [List.map_nil, eq_comm, List.map_eq_nil_iff] at hpaths
    rw [hpaths, List.append_nil]
    rfl
  | cons p paths ih =>
    cases syms with
    | nil => cases hpaths
    | cons sym syms =>
      obtain ⟨hp, hpaths⟩ := List.cons.inj hpaths
      have hlen : m + (p :: paths).flatten.length = m + p.length + paths.flatten.length := by
        rw [List.flatten_cons, List.length_append, Nat.add_assoc]
      have hout : (out ++ [sym]).length + syms.length = out.length + (sym :: syms).length := by
        simp; omega
      rw [List.flatten_cons, List.append_assoc] at hbits
      rw [hlen] at hf ⊢
      have hlt : out.length < s.totalChars.toNat := by rw [List.length_cons] at hle; omega
      rw [← hout] at hle hroom
      rw [unpackAt_path hsize hb hlt hp hbits (allows_mono (by omega) hf),
        snkPut_moved_of_room _ (hroom.mono (by simp)), Res.bind_ok,
        ih hpaths hle hroom (drop_of_append hbits) hf, List.append_assoc]
      rfl

end

/-! The command. -/

/-- A failure of the loop after bytes that the sink took is the command's. -/
theorem exec_buUnpack_of_raised {pos : Nat} {e : ErrorKind} (hroom : RoomFor out.length s)
    (h : buUnpackBody s = .raised e (moved s pos out)) :
    exec .buUnpack s = .next (failureEntry e { s with srcPos := pos }) := by
  rw [← failureEntry_moved _ hroom]
  exact exec_of_body_raised h

section
variable (hft : s.ftree = some nodes) (hb : s.srcBound = true)
include hft hb

section
variable {paths : List (List Bool)} {syms : List Byte} (hsize : s.treeSize.toNat = nodes.length)
  (hpaths : paths.map (leafSym nodes (nodes.length - 1)) = syms.map some)
  (hroom : RoomFor syms.length s)
include hsize hpaths hroom

/-- After paths to leaves their symbols are out. -/
theorem buUnpackBody_after_paths (hle : syms.length ≤ s.totalChars.toNat)
    (hbits : bitsAhead s = paths.flatten ++ more)
    (hf : allows s.srcFailAt (s.srcPos + (paths.flatten.length + 7) / 8) = true) :
    buUnpackBody s = unpackAt s nodes paths.flatten.length (nodes.length - 1) syms := by
  have h := unpackAt_paths (m := 0) (out := []) (more := more) hsize hb hpaths
  rw [List.length_nil, Nat.zero_add, Nat.zero_add] at h
  rw [buUnpackBody_eq_unpackAt hft, hsize, h hle hroom hbits hf, List.nil_append]

/-- After paths to leaves and steps that have not reached one. -/
theorem buUnpackBody_after_steps {steps : List Bool} {n : FinalNode}
    (hlt : syms.length < s.totalChars.toNat)
    (hmid : midway nodes (nodes.length - 1) steps = some n)
    (hbits : bitsAhead s = paths.flatten ++ (steps ++ more))
    (hf : allows s.srcFailAt (s.srcPos + (paths.flatten.length + steps.length + 7) / 8) = true) :
    ∃ j, nodes[j]? = some n ∧
      buUnpackBody s = unpackAt s nodes (paths.flatten.length + steps.length) j syms := by
  obtain ⟨j, hj, hn, hint⟩ := midway_eq_some hmid
  refine ⟨j, hn, ?_⟩
  rw [buUnpackBody_after_paths hft hb hsize hpaths hroom hlt.le hbits (allows_mono (by omega) hf)]
  exact unpackAt_walk hsize hb hlt hj hn hint (by rw [hbits, List.drop_left]) hf

/-- R198: a bit that selects a missing child. -/
theorem exec_buUnpack_of_missing {steps : List Bool} {bit : Bool} {n : FinalNode}
    (hlt : syms.length < s.totalChars.toNat)
    (hbits : bitsAhead s = paths.flatten ++ steps ++ bit :: more)
    (hmid : midway nodes (nodes.length - 1) steps = some n)
    (hc : (if bit then n.right else n.left) = Config.noChild)
    (hf : allows s.srcFailAt (s.srcPos + (paths.flatten.length + steps.length + 8) / 8) = true) :
    exec .buUnpack s = .next (failureEntry .invalidResource { s with
      srcPos := s.srcPos + (paths.flatten.length + steps.length + 8) / 8 }) := by
  obtain ⟨j, hn, hbody⟩ := buUnpackBody_after_steps hft hb hsize hpaths hroom hlt hmid
    (by rw [hbits, List.append_assoc]) (allows_mono (by omega) hf)
  have hnext : (bitsAhead s).drop (paths.flatten.length + steps.length) = bit :: more := by
    rw [hbits, ← List.length_append, List.drop_left]
  exact exec_buUnpack_of_raised hroom
    (hbody.trans (unpackAt_of_missing hlt hb hf hnext hsize hn hc))

/-- R196: the bits run out before the symbols. -/
theorem exec_buUnpack_of_truncated {rest : List Bool} {n : FinalNode}
    (hlt : syms.length < s.totalChars.toNat) (hbits : bitsAhead s = paths.flatten ++ rest)
    (hmid : midway nodes (nodes.length - 1) rest = some n) (hpos : s.srcPos ≤ s.src.length)
    (hf : allows s.srcFailAt (s.src.length + 1) = true) :
    exec .buUnpack s =
      .next (failureEntry .unexpectedEndOfInput { s with srcPos := s.src.length }) := by
  have hlen : paths.flatten.length + rest.length = 8 * (s.src.length - s.srcPos) := by
    rw [← List.length_append, ← hbits, bitsAhead, length_bitString, List.length_drop]
  have hend : s.srcPos + (s.src.length - s.srcPos) = s.src.length := Nat.add_sub_cancel' hpos
  obtain ⟨j, -, hbody⟩ := buUnpackBody_after_steps (more := []) hft hb hsize hpaths hroom hlt hmid
    (by rw [hbits, List.append_nil]) (allows_mono (by omega) hf)
  rw [hlen, unpackAt_of_end hlt (Nat.sub_le _ _) hb (by rwa [hend]) hend.ge, hend] at hbody
  exact exec_buUnpack_of_raised hroom hbody

/-- 20_memory.md R63: the read at the failure point fails. -/
theorem exec_buUnpack_of_read_failure {f : Nat} {rest : List Bool} {n : FinalNode}
    (hf : s.srcFailAt = some f) (hpos : s.srcPos ≤ f) (hle : f ≤ s.src.length)
    (hlt : syms.length < s.totalChars.toNat)
    (hbits : bitString ((s.src.drop s.srcPos).take (f - s.srcPos)) = paths.flatten ++ rest)
    (hmid : midway nodes (nodes.length - 1) rest = some n) :
    exec .buUnpack s = .next (failureEntry .fileAccessFailure { s with srcPos := f }) := by
  have hlen : paths.flatten.length + rest.length = 8 * (f - s.srcPos) := by
    rw [← List.length_append, ← hbits, length_bitString, List.length_take, List.length_drop,
      Nat.min_eq_left (by omega)]
  have hend : s.srcPos + (f - s.srcPos) = f := Nat.add_sub_cancel' hpos
  have hahead : bitsAhead s = paths.flatten ++
      (rest ++ bitString ((s.src.drop s.srcPos).drop (f - s.srcPos))) := by
    rw [← List.append_assoc, ← hbits, ← bitString_append, List.take_append_drop, bitsAhead]
  obtain ⟨j, -, hbody⟩ := buUnpackBody_after_steps hft hb hsize hpaths hroom hlt hmid hahead
    (by simp only [hf, allows, decide_eq_true_eq]; omega)
  rw [hlen, unpackAt_of_err hlt (by omega) (.inr (by simp [hend, hf, allows])), hend] at hbody
  exact exec_buUnpack_of_raised hroom hbody

end

/-- 20_memory.md R65: the put of the symbol of one path more than the sink takes fails. -/
theorem exec_buUnpack_of_full {g : Nat} {paths : List (List Bool)} {syms : List Byte}
    (hsize : s.treeSize.toNat = nodes.length)
    (hpaths : paths.map (leafSym nodes (nodes.length - 1)) = syms.map some)
    (hg : sinkRoom s = some g) (hlen : syms.length = g + 1) (hlt : g < s.totalChars.toNat)
    (hbits : bitsAhead s = paths.flatten ++ more)
    (hf : allows s.srcFailAt (s.srcPos + (paths.flatten.length + 7) / 8) = true) :
    exec .buUnpack s = .next (failureEntry .fileAccessFailure { s with
      srcPos := s.srcPos + (paths.flatten.length + 7) / 8 }) := by
  obtain ⟨syms, sym, rfl⟩ := (List.eq_nil_or_concat' syms).resolve_left (by rintro rfl; cases hlen)
  have hg' : syms.length = g := by simpa using hlen
  rw [List.map_append] at hpaths
  obtain ⟨ps, last, rfl, hps, hlast⟩ := List.map_eq_append_iff.1 hpaths
  obtain ⟨p, rfl, hp⟩ := List.map_eq_singleton_iff.1 hlast
  have hroom : RoomFor syms.length s := roomFor_of_sinkRoom hg hg'.le
  have hflat : (ps ++ [p]).flatten = ps.flatten ++ p := by simp
  rw [hflat, List.append_assoc] at hbits
  rw [hflat, List.length_append] at hf ⊢
  refine exec_buUnpack_of_raised hroom ?_
  rw [buUnpackBody_after_paths hft hb hsize hps hroom (by omega) hbits (allows_mono (by omega) hf),
    unpackAt_path hsize hb (by omega) hp (by rw [hbits, List.drop_left]) hf,
    snkPut_moved_of_full _ (hg' ▸ hg), Res.bind_raised]

end

/-- Settles O40: the walk puts the symbols of the paths, and all are then out. -/
theorem buUnpackWalksPaths : Obligations.BuUnpackWalksPaths := by
  intro s nodes paths syms pad hft hsize hpaths htotal hbits hb hf hsink
  refine exec_of_body_ok (u := moved s (s.srcPos + (paths.flatten.length + 7) / 8) syms) ?_
  rw [commandBody, buUnpackBody_after_paths hft hb hsize hpaths (roomFor_of_sinkTakes hsink)
    htotal.le hbits hf, unpackAt_of_done htotal.ge]

/-- Settles O41: nothing to read at the first bit, or the end or a missing child after paths and
steps. -/
theorem buUnpackFailures : Obligations.BuUnpackFailures := by
  intro s nodes hft hb
  refine ⟨fun htot hend hf => ?_, ?_, ?_⟩
  · refine exec_buUnpack_of_raised (pos := s.srcPos) (out := []) (fun g _ => Nat.zero_le g) ?_
    rw [buUnpackBody_eq_unpackAt hft]
    exact unpackAt_of_end (k := 0) htot (Nat.zero_le _) hb hf hend
  · intro paths syms rest n hsize hpaths hlt hroom hbits hmid hpos hf
    exact exec_buUnpack_of_truncated hft hb hsize hpaths hroom hlt hbits hmid hpos hf
  · intro paths syms steps more bit n hsize hpaths hlt hroom hbits hmid hc hf
    exact exec_buUnpack_of_missing hft hb hsize hpaths hroom hlt hbits hmid hc hf

/-- Settles O42: a read that fails at the first bit or after paths and steps, or a sink that takes
the symbols of all paths but the last. -/
theorem buUnpackStreamFailures : Obligations.BuUnpackStreamFailures := by
  intro s nodes hft htot
  refine ⟨fun herr => ?_, ?_, ?_⟩
  · refine exec_buUnpack_of_raised (pos := s.srcPos) (out := []) (fun g _ => Nat.zero_le g) ?_
    rw [buUnpackBody_eq_unpackAt hft]
    exact unpackAt_of_err (k := 0) htot (Nat.zero_le _) herr
  · intro f paths syms rest n hb hf hpos hle hsize hpaths hlt hroom hbits hmid
    exact exec_buUnpack_of_read_failure hft hb hsize hpaths hroom hf hpos hle hlt hbits hmid
  · intro g paths syms pad hb hsize hpaths hg hlen hlt hbits hf
    exact exec_buUnpack_of_full hft hb hsize hpaths hg hlen hlt hbits hf

end

end Sys2Proof.Machine
end

section
/-! PROOFS. The header and the node records of a compressed file (30_encoding.md R100 to R104): the
bytes by positions are those of the machine's own functions. -/

namespace Sys2Proof.Machine

/-! Numbers (20_memory.md R70). -/

@[simp] theorem length_littleEndian (n v : Nat) : (littleEndian n v).length = n := by
  simp [littleEndian]

theorem littleEndian_succ (n v : Nat) :
    littleEndian (n + 1) v = BitVec.ofNat 8 v :: littleEndian n (v / 256) := by
  simp [littleEndian, List.range_succ_eq_map, Nat.div_div_eq_div_mul, Nat.pow_succ']

theorem littleEndian_one (b : Byte) : littleEndian 1 b.toNat = [b] := by
  simp [littleEndian]

theorem extractLsb'_eq_ofNat_div {w : Nat} (v : BitVec w) (start : Nat) :
    v.extractLsb' start 8 = BitVec.ofNat 8 (v.toNat / 2 ^ start) := by
  rw [BitVec.extractLsb', Nat.shiftRight_eq_div_pow]

theorem le16_eq_littleEndian (v : BitVec 16) : le16 v = littleEndian 2 v.toNat := by
  simp [le16, extractLsb'_eq_ofNat_div, littleEndian, List.range_succ]

theorem le32_eq_littleEndian (v : BitVec 32) : le32 v = littleEndian 4 v.toNat := by
  simp [le32, extractLsb'_eq_ofNat_div, littleEndian, List.range_succ]

/-! Records (R103, R104). -/

theorem recordOf_some (x : FinalNode) : recordOf (some x) = recordBytes x := by
  rw [recordOf, recordBytes, le16_eq_littleEndian, le16_eq_littleEndian]

@[simp] theorem length_recordBytes (x : FinalNode) : (recordBytes x).length = 5 := rfl

@[simp] theorem recordOrder_concat (xs : List FinalNode) (r : FinalNode) :
    recordOrder (xs ++ [r]) = r :: xs := by
  simp [recordOrder]

@[simp] theorem length_recordOrder (nodes : List FinalNode) :
    (recordOrder nodes).length = nodes.length := by
  rcases List.eq_nil_or_concat' nodes with rfl | ⟨xs, r, rfl⟩
  · rfl
  · simp

/-- 45_serializer.md R217: the reader's places undo the writer's order. -/
theorem placeRecords_recordOrder (nodes : List FinalNode) :
    placeRecords (recordOrder nodes) = nodes := by
  rcases List.eq_nil_or_concat' nodes with rfl | ⟨xs, r, rfl⟩
  · rfl
  · rw [recordOrder_concat, placeRecords]

/-- R104: the writer's order by positions. -/
theorem map_recordIndex (nodes : List FinalNode) :
    (List.range nodes.length).map (fun k => nodes[recordIndex nodes.length k]?) =
      (recordOrder nodes).map some := by
  rcases List.eq_nil_or_concat' nodes with rfl | ⟨xs, r, rfl⟩
  · rfl
  · rw [recordOrder_concat]
    apply List.ext_getElem
    · simp
    · intro k hk _
      cases k with
      | zero => simp [recordIndex]
      | succ k =>
        have hlt : k < xs.length := by simpa using hk
        simp [recordIndex, List.getElem?_append_left hlt, List.getElem?_eq_getElem hlt]

/-- R100: header and records, in the writer's order. -/
theorem fileHead_eq (n : Nat) (nodes : List FinalNode) :
    fileHead n nodes = littleEndian 4 n ++ littleEndian 2 nodes.length ++
      (recordOrder nodes).flatMap recordBytes := by
  have hrec : (List.range nodes.length).flatMap
      (fun k => recordOf nodes[recordIndex nodes.length k]?) =
        (recordOrder nodes).flatMap recordBytes := by
    calc _ = ((List.range nodes.length).map
              (fun k => nodes[recordIndex nodes.length k]?)).flatMap recordOf := by
            rw [List.flatMap_map]
      _ = (recordOrder nodes).flatMap recordBytes := by
            rw [map_recordIndex, List.flatMap_map]
            exact congrArg (recordOrder nodes).flatMap (funext recordOf_some)
  rw [fileHead, hrec]

theorem length_fileHead (n : Nat) (nodes : List FinalNode) :
    (fileHead n nodes).length = 6 + 5 * nodes.length := by
  simp [fileHead_eq]
  omega

/-- 45_serializer.md R211: what `SER_WRITE` puts is the head of the file. -/
theorem headerAndTree_eq_fileHead (v : BitVec 32) (nodes : List FinalNode)
    (hlen : nodes.length < 65536) :
    headerAndTree v (BitVec.ofNat 16 nodes.length) nodes = fileHead v.toNat nodes := by
  rw [headerAndTree, fileHead_eq, le32_eq_littleEndian, le16_eq_littleEndian,
    BitVec.toNat_ofNat, Nat.mod_eq_of_lt hlen]

end Sys2Proof.Machine
end

section
/-! PROOFS. `SER_WRITE` (45_serializer.md R211): all bytes go to the sink, or none stays there (O44,
O45). -/

namespace Sys2Proof.Machine

/-- 60_exceptions.md R257: a failure empties a bound sink, whatever was in it. -/
theorem failureEntry_set_snk {s : State} (k : ErrorKind) (bytes : List Byte)
    (hb : s.snkBound = true) : failureEntry k { s with snk := bytes } = failureEntry k s := by
  simp [failureEntry, snkTruncate, releaseAll, hb]

/-- 20_memory.md R65: a command whose last act is to put more bytes than the sink takes fails, with
nothing of them left. -/
theorem finish_snkPutAll_of_not_takes {bytes : List Byte} (hne : bytes ≠ []) (s : State)
    (h : ¬ SinkTakes bytes.length s) :
    finish (snkPutAll bytes s) = .next (failureEntry .fileAccessFailure s) := by
  induction bytes generalizing s with
  | nil => exact absurd rfl hne
  | cons b bs ih =>
    rw [snkPutAll]
    rcases snkPut_cases b s with ⟨⟨hb, hf⟩, hput⟩ | ⟨-, hput⟩
    · have hrest : ¬ SinkTakes bs.length { s with snk := s.snk ++ [b] } := fun ⟨_, hfit⟩ =>
        h ⟨hb, by simpa [Nat.add_assoc, Nat.add_comm 1] using hfit⟩
      have hbs : bs ≠ [] := by
        rintro rfl
        exact h ⟨hb, hf⟩
      rw [hput, Res.andThen_ok, ih hbs _ hrest, failureEntry_set_snk _ _ hb]
    · rw [hput, Res.andThen_raised, finish]

section
variable {s : State} {a : Arena}

/-- R211: with its preconditions met, `SER_WRITE` puts the head of the file. -/
theorem serWriteBody_of_tree (ha : s.arena = some a) (hft : s.ft ≠ none)
    (hrv : s.rootValid = true) (hroot : s.root.toNat + 1 = a.nodes.length) :
    serWriteBody s = snkPutAll (fileHead s.totalChars.toNat (finalsOf a))
      { s with treeSize := BitVec.ofNat 16 a.nodes.length } := by
  have hlen : a.nodes.length < 65536 := by
    have := s.root.isLt
    omega
  have hbytes := headerAndTree_eq_fileHead s.totalChars (finalsOf a)
    (by simpa [finalsOf] using hlen)
  rw [finalsOf, List.length_map] at hbytes
  simp only [serWriteBody, ha, Option.isNone_iff_eq_none, hft, hrv, hroot, Bool.true_eq_false,
    or_self, if_false, ne_eq, not_true_eq_false]
  exact congrArg (snkPutAll · _) hbytes

end

/-- Settles O44: the sink takes every byte. -/
theorem serWriteWritesHeaderAndTree : Obligations.SerWriteWritesHeaderAndTree := by
  intro s a ha hft hrv hroot hsink
  rw [exec_eq_finish, commandBody, serWriteBody_of_tree ha hft hrv hroot, snkPutAll_of_takes]
  · rfl
  · exact hsink

/-- Settles O45: a put fails, after `tree_size` is written. -/
theorem serWriteSinkFailure : Obligations.SerWriteSinkFailure := by
  intro s a ha hft hrv hroot hsink
  have hne : fileHead s.totalChars.toNat (finalsOf a) ≠ [] := by
    rw [← List.length_pos_iff, length_fileHead]
    omega
  rw [exec_eq_finish, commandBody, serWriteBody_of_tree ha hft hrv hroot]
  exact finish_snkPutAll_of_not_takes hne _ hsink

end Sys2Proof.Machine
end

section
/-! PROOFS. Pieces of pseudocode that read a fixed number of bytes of the source (20_memory.md R63,
45_serializer.md R216): `GetLE`, one record and many, where the bytes are there and where the reads
stop before. -/

namespace Sys2Proof.Machine

theorem Res.bind_assoc {α β γ : Type} (m : Res α) (f : α → State → Res β)
    (g : β → State → Res γ) : (m.bind f).bind g = m.bind fun a s => (f a s).bind g := by
  cases m <;> rfl

/-! Where the reads stop. -/

/-- The reads before position `q` answer bytes, and the one at `q` makes `GetLE` raise `k`. -/
def ReadsStopAt (s : State) (q : Nat) (k : ErrorKind) : Prop :=
  (0 < q → s.srcBound = true) ∧ allows s.srcFailAt q = true ∧ q ≤ s.src.length ∧
    ((k = .fileAccessFailure ∧ (s.srcBound = false ∨ allows s.srcFailAt (q + 1) = false)) ∨
      (k = .unexpectedEndOfInput ∧ s.srcBound = true ∧ allows s.srcFailAt (q + 1) = true ∧
        s.src.length ≤ q))

theorem readsStopAt_end {s : State} (hb : s.srcBound = true)
    (hf : allows s.srcFailAt (s.src.length + 1) = true) :
    ReadsStopAt s s.src.length .unexpectedEndOfInput :=
  ⟨fun _ => hb, allows_mono (Nat.le_succ _) hf, le_refl _, .inr ⟨rfl, hb, hf, le_refl _⟩⟩

theorem readsStopAt_failure {s : State} {f : Nat} (hb : s.srcBound = true)
    (hf : s.srcFailAt = some f) (hle : f ≤ s.src.length) :
    ReadsStopAt s f .fileAccessFailure :=
  ⟨fun _ => hb, by simp [hf, allows], hle, .inl ⟨rfl, .inr (by simp [hf, allows])⟩⟩

theorem readsStopAt_unbound {s : State} (hb : s.srcBound = false) :
    ReadsStopAt s 0 .fileAccessFailure :=
  ⟨fun h => absurd h (Nat.lt_irrefl 0), by cases h : s.srcFailAt <;> simp [allows], Nat.zero_le _,
    .inl ⟨rfl, .inl hb⟩⟩

/-- `m` reads up to position `e` and does nothing else, or stops with the reads at `q` before. -/
def Res.ReadsTo {α : Type} (m : Res α) (s : State) (q : Nat) (k : ErrorKind) (e : Nat) : Prop :=
  (e ≤ q ∧ ∃ a, m = .ok a { s with srcPos := e }) ∨
    (q < e ∧ m = .raised k { s with srcPos := q })

section
variable {α β : Type} {s : State} {q pos e e' : Nat} {k : ErrorKind}

theorem Res.readsTo_ok (a : α) (he : e ≤ q) :
    (Res.ok a { s with srcPos := e }).ReadsTo s q k e :=
  .inl ⟨he, a, rfl⟩

/-- Reading on. -/
theorem Res.ReadsTo.bind {m : Res α} {f : α → State → Res β} (hm : m.ReadsTo s q k e)
    (hle : e ≤ e') (hf : ∀ a, e ≤ q → (f a { s with srcPos := e }).ReadsTo s q k e') :
    (m.bind f).ReadsTo s q k e' := by
  rcases hm with ⟨he, a, rfl⟩ | ⟨hlt, rfl⟩
  · exact hf a he
  · exact .inr ⟨hlt.trans_le hle, rfl⟩

/-- More bytes are wanted than come before the reads stop. -/
theorem Res.ReadsTo.raised {m : Res α} (hm : m.ReadsTo s q k e) (hlt : q < e) :
    m = .raised k { s with srcPos := q } :=
  hm.elim (fun ⟨hle, _⟩ => absurd hlt (Nat.not_lt.2 hle)) fun ⟨_, h⟩ => h

theorem getLE_readsTo (h : ReadsStopAt s q k) (hp : pos ≤ q) (n : Nat) :
    (getLE n { s with srcPos := pos }).ReadsTo s q k (pos + n) := by
  induction n generalizing pos with
  | zero => exact Res.readsTo_ok 0 hp
  | succ n ih =>
    obtain ⟨hb, hf, hlen, hstop⟩ := h
    rw [getLE]
    rcases Nat.lt_or_eq_of_le hp with hlt | rfl
    · have hbyte := List.getElem?_eq_getElem (hlt.trans_le hlen)
      rw [srcNext_of_byte (s := { s with srcPos := pos }) (hb (by omega)) (allows_mono hlt hf)
        hbyte, Nat.add_comm n 1, ← Nat.add_assoc]
      exact (ih hlt).bind (le_refl _) fun v hle => Res.readsTo_ok _ hle
    · refine .inr ⟨by omega, ?_⟩
      rcases hstop with ⟨rfl, herr⟩ | ⟨rfl, hb, hf, hend⟩
      · rw [srcNext_of_err (s := { s with srcPos := pos }) herr]
      · rw [srcNext_of_end (s := { s with srcPos := pos }) hb hf hend]

theorem readRecord_readsTo (h : ReadsStopAt s q k) (hp : pos ≤ q) :
    (readRecord { s with srcPos := pos }).ReadsTo s q k (pos + 5) :=
  (getLE_readsTo h hp 1).bind (by omega) fun _ h1 =>
    (getLE_readsTo h h1 2).bind (by omega) fun _ h3 =>
      (getLE_readsTo h h3 2).bind (le_refl _) fun _ h5 => Res.readsTo_ok _ h5

theorem readRecords_readsTo (h : ReadsStopAt s q k) (hp : pos ≤ q) (n : Nat) :
    (readRecords n { s with srcPos := pos }).ReadsTo s q k (pos + 5 * n) := by
  induction n generalizing pos with
  | zero => exact Res.readsTo_ok [] hp
  | succ n ih =>
    rw [readRecords, Nat.mul_succ, Nat.add_comm (5 * n), ← Nat.add_assoc]
    exact (readRecord_readsTo h hp).bind (by omega) fun _ h5 =>
      (ih h5).bind (le_refl _) fun _ hn => Res.readsTo_ok _ hn

end

/-! Where the bytes are there. -/

section
variable {s : State} {pos : Nat} {more : List Byte}

/-- R216: `GetLE` reads back a little-endian number. -/
theorem getLE_littleEndian {n v : Nat} (hb : s.srcBound = true)
    (hf : allows s.srcFailAt (pos + n) = true) (hv : v < 256 ^ n)
    (hsrc : s.src.drop pos = littleEndian n v ++ more) :
    getLE n { s with srcPos := pos } = .ok v { s with srcPos := pos + n } := by
  induction n generalizing pos v with
  | zero =>
    rw [Nat.lt_one_iff.1 hv]
    rfl
  | succ n ih =>
    rw [littleEndian_succ, List.cons_append] at hsrc
    have hbyte : s.src[pos]? = some (BitVec.ofNat 8 v) := by
      rw [← List.head?_drop, hsrc, List.head?_cons]
    have htail : s.src.drop (pos + 1) = littleEndian n (v / 256) ++ more := by
      rw [← List.tail_drop, hsrc, List.tail_cons]
    have hrest := ih (by rwa [Nat.add_assoc, Nat.add_comm 1])
      (Nat.div_lt_of_lt_mul (by rwa [← Nat.pow_succ'])) htail
    have hone : allows s.srcFailAt (pos + 1) = true := allows_mono (by omega) hf
    rw [getLE, srcNext_of_byte (s := { s with srcPos := pos }) hb hone hbyte]
    simp only [hrest, Res.bind_ok, BitVec.toNat_ofNat, Nat.reducePow, Nat.mod_add_div,
      Nat.add_assoc, Nat.add_comm 1]

/-- R216: reading a record gives back its node. -/
theorem readRecord_recordBytes {x : FinalNode} (hb : s.srcBound = true)
    (hf : allows s.srcFailAt (pos + 5) = true)
    (hsrc : s.src.drop pos = recordBytes x ++ more) :
    readRecord { s with srcPos := pos } = .ok x { s with srcPos := pos + 5 } := by
  rw [recordBytes, le16_eq_littleEndian, le16_eq_littleEndian, ← List.singleton_append,
    ← littleEndian_one, List.append_assoc, List.append_assoc] at hsrc
  have hl := drop_of_append hsrc
  rw [length_littleEndian] at hl
  have hr := drop_of_append hl
  rw [length_littleEndian] at hr
  rw [readRecord, getLE_littleEndian hb (allows_mono (by omega) hf) x.sym.isLt hsrc, Res.bind_ok,
    getLE_littleEndian hb (allows_mono (by omega) hf) x.left.isLt hl, Res.bind_ok,
    getLE_littleEndian hb (allows_mono (by omega) hf) x.right.isLt hr, Res.bind_ok]
  simp

/-- R216: reading records gives back their nodes. -/
theorem readRecords_flatMap {xs : List FinalNode} (hb : s.srcBound = true)
    (hf : allows s.srcFailAt (pos + 5 * xs.length) = true)
    (hsrc : s.src.drop pos = xs.flatMap recordBytes ++ more) :
    readRecords xs.length { s with srcPos := pos } =
      .ok xs { s with srcPos := pos + 5 * xs.length } := by
  induction xs generalizing pos with
  | nil => rfl
  | cons x xs ih =>
    rw [List.flatMap_cons, List.append_assoc] at hsrc
    rw [List.length_cons, Nat.mul_succ, Nat.add_comm (5 * xs.length), ← Nat.add_assoc] at hf ⊢
    rw [readRecords, readRecord_recordBytes hb (allows_mono (by omega) hf) hsrc, Res.bind_ok,
      ih hf (drop_of_append hsrc), Res.bind_ok]

end

end Sys2Proof.Machine
end

section
/-! PROOFS. `SER_READ` (45_serializer.md R216 to R219): the header's six bytes, the two tests, the
records and the test of their children (O46 to O49). -/

namespace Sys2Proof.Machine

/-! The header (R218). -/

/-- R216: the two header fields, before a register is written. -/
def readHeader (s : State) : Res (Nat × Nat) :=
  (getLE 4 (srcRewind s)).bind fun tc s => (getLE 2 s).bind fun ts s => .ok (tc, ts) s

/-- R216 behind the header: the registers, the tests and the tree. -/
def loadTree (tc ts : Nat) (s : State) : Res Unit :=
  let s := { s with totalChars := BitVec.ofNat 32 tc, treeSize := BitVec.ofNat 16 ts }
  if tc < Config.minTotalChars ∨ ts < Config.minTreeSize then .raised .invalidResource s
  else if ts > Config.maxNodes then .raised .invalidResource s
  else
    (readRecords ts s).bind fun records s =>
      if childrenInRange ts (placeRecords records) = true then
        .ok () { s with ftree := some (placeRecords records) }
      else .raised .invalidResource s

theorem serReadBody_eq (s : State) :
    serReadBody s = (readHeader s).bind fun p s => loadTree p.1 p.2 s := by
  simp only [readHeader, Res.bind_assoc]
  rfl

section
variable {s : State} {q n t : Nat} {k : ErrorKind} {more : List Byte}

/-- R218: reads that stop inside the header fail the command with neither register written. -/
theorem exec_serRead_of_stop_in_header (h : ReadsStopAt s q k) (hq : q < 6) :
    exec .serRead s = .next (failureEntry k { s with srcPos := q }) := by
  have hread : (readHeader s).ReadsTo s q k 6 :=
    (getLE_readsTo h (Nat.zero_le q) 4).bind (by omega) fun _ h4 =>
      (getLE_readsTo h h4 2).bind (by omega) fun _ h6 => Res.readsTo_ok _ h6
  refine exec_of_body_raised ?_
  rw [commandBody, serReadBody_eq, hread.raised hq, Res.bind_raised]

/-- R218: a header that is there is read. -/
theorem serReadBody_of_header (hb : s.srcBound = true) (hf : allows s.srcFailAt 6 = true)
    (hsrc : s.src = littleEndian 4 n ++ littleEndian 2 t ++ more) (hn : n < 4294967296)
    (ht : t < 65536) : serReadBody s = loadTree n t { s with srcPos := 6 } := by
  rw [List.append_assoc] at hsrc
  have htc := getLE_littleEndian (pos := 0) hb (allows_mono (by omega) hf) hn hsrc
  have hts := getLE_littleEndian (pos := 4) hb hf ht (drop_of_append (m := 0) hsrc)
  rw [serReadBody_eq, readHeader, srcRewind, htc, Res.bind_ok, hts, Res.bind_ok, Res.bind_ok]

/-- R218: the tests of the two fields. -/
theorem loadTree_of_bad_header (h : n < 2 ∨ t < 2 ∨ 511 < t) : loadTree n t s =
    .raised .invalidResource
      { s with totalChars := BitVec.ofNat 32 n, treeSize := BitVec.ofNat 16 t } := by
  unfold loadTree
  split
  · rfl
  · next hmin => exact if_pos ((or_assoc.2 h).resolve_left hmin)

theorem loadTree_of_good_header (hn : 2 ≤ n) (ht : 2 ≤ t) (ht' : t ≤ 511) : loadTree n t s =
    (readRecords t { s with
      totalChars := BitVec.ofNat 32 n, treeSize := BitVec.ofNat 16 t }).bind fun records s =>
        if childrenInRange t (placeRecords records) = true then
          .ok () { s with ftree := some (placeRecords records) }
        else .raised .invalidResource s := by
  rw [loadTree, if_neg (not_or.2 ⟨Nat.not_lt.2 hn, Nat.not_lt.2 ht⟩), if_neg (Nat.not_lt.2 ht')]

/-! The records (R217, R219). -/

/-- R216, R219: reads that stop inside the records fail the command before a child is tested, with
both registers written. -/
theorem exec_serRead_of_stop_in_records (h : ReadsStopAt s q k) (hq : 6 ≤ q) (hqt : q < 6 + 5 * t)
    (hsrc : s.src = littleEndian 4 n ++ littleEndian 2 t ++ more) (hn : 2 ≤ n)
    (hn' : n < 4294967296) (ht : 2 ≤ t) (ht' : t ≤ 511) :
    exec .serRead s = .next (failureEntry k { s with
      totalChars := BitVec.ofNat 32 n, treeSize := BitVec.ofNat 16 t, srcPos := q }) := by
  have hrecords := readRecords_readsTo (s := { s with
    totalChars := BitVec.ofNat 32 n, treeSize := BitVec.ofNat 16 t }) h hq t
  refine exec_of_body_raised ?_
  obtain ⟨hb, hf, -, -⟩ := h
  rw [commandBody, serReadBody_of_header (hb (by omega)) (allows_mono hq hf) hsrc hn' (by omega),
    loadTree_of_good_header hn ht ht', hrecords.raised hqt, Res.bind_raised]

/-- R217: the head of a file is read in whole, and every node is back in its place before its
children are tested. -/
theorem serReadBody_of_fileHead {nodes : List FinalNode} (hb : s.srcBound = true)
    (hsrc : s.src = fileHead n nodes ++ more) (hn : 2 ≤ n) (hn' : n < 4294967296)
    (hlen : 2 ≤ nodes.length) (hlen' : nodes.length ≤ 511)
    (hf : allows s.srcFailAt (6 + 5 * nodes.length) = true) :
    serReadBody s =
      if childrenInRange nodes.length nodes = true then
        .ok () { s with totalChars := BitVec.ofNat 32 n, treeSize := BitVec.ofNat 16 nodes.length,
                        ftree := some nodes, srcPos := 6 + 5 * nodes.length }
      else .raised .invalidResource { s with
        totalChars := BitVec.ofNat 32 n, treeSize := BitVec.ofNat 16 nodes.length,
        srcPos := 6 + 5 * nodes.length } := by
  rw [fileHead_eq, List.append_assoc] at hsrc
  rw [← length_recordOrder] at hf
  have hdrop : s.src.drop 6 = (recordOrder nodes).flatMap recordBytes ++ more := by
    rw [hsrc]
    exact List.drop_left' (by simp)
  have hrecords := readRecords_flatMap (s := { s with
    totalChars := BitVec.ofNat 32 n, treeSize := BitVec.ofNat 16 nodes.length }) hb hf hdrop
  rw [length_recordOrder] at hrecords
  rw [serReadBody_of_header hb (allows_mono (by omega) hf) hsrc hn' (by omega),
    loadTree_of_good_header hn hlen hlen', hrecords, Res.bind_ok, placeRecords_recordOrder]

end

/-- R219: the test of a child index, in words. -/
theorem childInRange_iff {t : Nat} {c : ChildIdx} :
    childInRange t c = true ↔ c.toInt = -1 ∨ (0 ≤ c.toInt ∧ c.toInt < t) := by
  simp [childInRange]

/-! The command. -/

/-- Settles O46: the head of the file is read in whole, and every child is in range. -/
theorem serReadLoadsTree : Obligations.SerReadLoadsTree := by
  intro s n nodes more hb hsrc hn hn' ⟨hlen, hlen', hchildren⟩ hf
  rw [exec_eq_finish, commandBody, serReadBody_of_fileHead hb hsrc hn hn' hlen hlen' hf,
    if_pos (childrenInRange_iff.2 hchildren)]
  rfl

/-- Settles O47: a header that is there fails a test, or the reads stop inside it at the end. -/
theorem serReadChecksHeader : Obligations.SerReadChecksHeader := by
  refine fun s hb => ⟨fun n t more hsrc hn ht hf hbad => exec_of_body_raised ?_, fun hlen hf =>
    exec_serRead_of_stop_in_header (readsStopAt_end hb hf) hlen⟩
  rw [commandBody, serReadBody_of_header hb hf hsrc hn ht, loadTree_of_bad_header hbad]

/-- Settles O48: the head of the file is read in whole, and a child is out of range. -/
theorem serReadChecksChildren : Obligations.SerReadChecksChildren := by
  intro s n nodes more bad hb hsrc hn hn' hlen hlen' hf hmem hbad
  have hout : ¬ childrenInRange nodes.length nodes = true := fun h => by
    obtain ⟨hl, hr⟩ := childrenInRange_iff.1 h bad hmem
    exact hbad.elim (absurd (childInRange_iff.1 hl)) (absurd (childInRange_iff.1 hr))
  refine exec_of_body_raised ?_
  rw [commandBody, serReadBody_of_fileHead hb hsrc hn hn' hlen hlen' hf, if_neg hout]

/-- Settles O49: the reads stop inside the records at the end, at once, inside the header, or inside
the records at the failure point. -/
theorem serReadTruncatedTree : Obligations.SerReadTruncatedTree := by
  refine fun s => ⟨?_, fun hb => ?_, fun f hb hf hf6 hle => ?_, ?_⟩
  · intro n k nodes hb hsrc hk hkt hn hn' hlen hlen' hf
    have hlength : s.src.length = k := by
      rw [hsrc, List.length_take, length_fileHead]
      omega
    rw [fileHead_eq, List.take_append, List.take_of_length_le (by simpa using hk)] at hsrc
    have hstop : ReadsStopAt s k .unexpectedEndOfInput :=
      hlength ▸ readsStopAt_end hb (hlength ▸ hf)
    exact exec_serRead_of_stop_in_records hstop hk hkt hsrc hn hn' hlen hlen'
  · exact exec_serRead_of_stop_in_header (readsStopAt_unbound hb) (by decide)
  · exact exec_serRead_of_stop_in_header (readsStopAt_failure hb hf hle) hf6
  · intro f n t more hb hf hf6 hft hle hsrc hn hn' ht ht'
    exact exec_serRead_of_stop_in_records (readsStopAt_failure hb hf hle) hf6 hft hsrc hn hn' ht ht'

end Sys2Proof.Machine
end

section
/-! PROOFS. No piece of pseudocode gets stuck (46_top_level.md R242): the loops over the streams end
within their bounds, and in a state that meets the invariant no index outside an array is formed
(20_memory.md R69); so every step answers (O11). -/

namespace Sys2Proof.Machine

/-- The piece of pseudocode goes on or raises: it does not get stuck. -/
def Res.Ends {α : Type} (m : Res α) : Prop :=
  ∀ r, m ≠ .stuck r

section
variable {α β : Type} {s : State}

@[simp] theorem Res.ends_ok (a : α) : (Res.ok a s).Ends := nofun

@[simp] theorem Res.ends_raised (k : ErrorKind) : (Res.raised k s : Res α).Ends := nofun

theorem Res.Ends.bind {m : Res α} {f : α → State → Res β} (hm : m.Ends)
    (hf : ∀ a u, (f a u).Ends) : (m.bind f).Ends := by
  cases m with
  | ok a u => exact hf a u
  | raised k u => exact nofun
  | stuck r => exact absurd rfl (hm r)

theorem Res.Ends.andThen {m : Res Unit} {g : State → Res Unit} (hm : m.Ends)
    (hg : ∀ u, (g u).Ends) : (m.andThen g).Ends :=
  hm.bind fun _ => hg

/-- Sequencing in states that meet the invariant. -/
theorem Res.Ends.andThen_of_keepsInv {m : Res Unit} {g : State → Res Unit} (hm : m.Ends)
    (hk : m.KeepsInv) (hg : ∀ u, u.Inv → (g u).Ends) : (m.andThen g).Ends := by
  cases m with
  | ok a u => exact hg u hk
  | raised k u => exact nofun
  | stuck r => exact absurd rfl (hm r)

end

/-- A command whose body does not get stuck answers. -/
theorem exec_answers {i : Instr} {s : State} (h : (commandBody i s).Ends) :
    ∃ t, exec i s = .next t := by
  rw [exec_eq_finish]
  cases hm : commandBody i s with
  | ok a u => exact ⟨_, rfl⟩
  | raised k u => exact ⟨_, rfl⟩
  | stuck r => exact absurd hm (h r)

/-- A command that answers has a body that does not get stuck. -/
theorem commandBody_ends_of_exec {i : Instr} {s t : State} (h : exec i s = .next t) :
    (commandBody i s).Ends := by
  intro r hr
  rw [exec_eq_finish, hr] at h
  cases h

/-! The streams. -/

theorem snkPut_ends (b : Byte) (s : State) : (snkPut b s).Ends := by
  rcases snkPut_cases b s with ⟨-, h⟩ | ⟨-, h⟩ <;> simp [h]

theorem getLE_ends (n : Nat) (s : State) : (getLE n s).Ends := by
  rcases getLE_cases n s with ⟨v, h⟩ | ⟨k, p, -, -, h⟩ <;> simp [h]

theorem readRecords_ends (n : Nat) (s : State) : (readRecords n s).Ends := by
  rcases readRecords_cases n s with ⟨xs, -, h⟩ | ⟨k, p, -, -, h⟩ <;> simp [h]

theorem ftCountBody_ends (s : State) : (ftCountBody s).Ends := by
  refine Res.Ends.bind ?_ fun p u => ?_
  · rcases countLoop_cases (s.src.length + 1) (Vector.replicate 256 0) 0 (srcRewind s) (by simp)
      with ⟨ft, t, p, -, h⟩ | ⟨k, p, -, h⟩ <;> rw [h] <;> exact nofun
  · split <;> simp

theorem bpPackBody_ends (s : State) : (bpPackBody s).Ends := by
  unfold bpPackBody
  split
  · simp
  · rename_i code _
    refine Res.Ends.bind ?_ fun p u => ?_
    · rcases packLoop_cases code (s.src.length + 1) 0 0 (srcRewind s) (by simp) with
        ⟨p, pos, more, h⟩ | ⟨k, pos, more, -, h⟩ <;> rw [h] <;> exact nofun
    · unfold putPartial
      split
      · exact snkPut_ends _ u
      · simp

theorem buUnpackBody_ends (s : State) : (buUnpackBody s).Ends := by
  cases hf : s.ftree with
  | none => simp [buUnpackBody, hf]
  | some nodes =>
    rw [buUnpackBody_of_ftree hf]
    rcases unpackLoop_cases (ftreeNode nodes s.treeSize.toNat s.freeCtr) (s.treeSize.toNat - 1)
      s.totalChars.toNat (s.src.length + 1) (s.treeSize.toNat - 1) 0 s (by omega) with
      ⟨pos, more, h⟩ | ⟨k, pos, more, -, h⟩ <;> simp [h]

theorem serWriteBody_ends (s : State) : (serWriteBody s).Ends := by
  unfold serWriteBody
  split
  · simp
  · rename_i a _
    split
    · simp
    · split
      · simp
      · rcases snkPutAll_cases (headerAndTree s.totalChars (BitVec.ofNat 16 a.nodes.length)
            (a.nodes.map finalOf)) { s with treeSize := BitVec.ofNat 16 a.nodes.length } with
          h | ⟨more, h⟩ <;> simp [h]

theorem loadTree_ends (tc ts : Nat) (s : State) : (loadTree tc ts s).Ends := by
  unfold loadTree
  dsimp only
  split
  · simp
  · split
    · simp
    · refine (readRecords_ends ts _).bind fun xs u => ?_
      split <;> simp

theorem readHeader_ends (s : State) : (readHeader s).Ends :=
  (getLE_ends 4 _).bind fun _ u => (getLE_ends 2 u).bind fun _ _ => Res.ends_ok _

theorem serReadBody_ends (s : State) : (serReadBody s).Ends := by
  rw [serReadBody_eq]
  exact (readHeader_ends s).bind fun p u => loadTree_ends p.1 p.2 u

/-! The queue and the tree. -/

theorem heapInsert_ends (e : HeapEntry) (s : State) : (heapInsert e s).Ends := by
  rcases heapInsert_cases e s with ⟨-, h⟩ | ⟨q, -, ⟨-, h⟩ | ⟨-, h⟩⟩ <;> simp [h]

theorem heapExtract2_ends (s : State) : (heapExtract2 s).Ends := by
  rcases heapExtract2_cases s with ⟨-, h⟩ | ⟨q, -, ⟨-, h⟩ | ⟨a, b, g, g', -, -, -, h⟩⟩ <;> simp [h]

theorem arenaAppend_ends (n : WorkNode) (s : State) : (arenaAppend n s).Ends := by
  rcases arenaAppend_cases n s with ⟨a, c, -, -, h⟩ | ⟨-, h⟩ | ⟨a, -, -, -, h⟩ <;> simp [h]

theorem pqInitBody_ends (cap : BitVec 16) (s : State) : (pqInitBody cap s).Ends := by
  unfold pqInitBody
  split <;> simp

theorem pqInsertBody_ends (idx : BitVec 16) (freq : Word32) (s : State) :
    (pqInsertBody idx freq s).Ends := by
  unfold pqInsertBody
  split
  · simp
  · exact heapInsert_ends _ s

theorem mergeStep_ends (s : State) : (mergeStep s).Ends := by
  refine (heapExtract2_ends s).bind fun p u => ?_
  split
  · simp
  · split
    · simp
    · exact (arenaAppend_ends _ u).andThen fun v => heapInsert_ends _ v

theorem buildLoop_ends (n : Nat) (s : State) : (buildLoop n s).Ends := by
  induction n generalizing s with
  | zero => simp [buildLoop]
  | succ n ih =>
    unfold buildLoop
    split
    · exact (mergeStep_ends s).andThen ih
    · simp

theorem settleRoot_ends (s : State) : (settleRoot s).Ends := by
  unfold settleRoot
  split
  · split
    · simp
    · split
      · simp
      · split
        · exact (arenaAppend_ends _ s).andThen fun u => Res.ends_ok _
        · simp
  · simp
  · simp

theorem tbBuildBody_ends (s : State) : (tbBuildBody s).Ends := by
  unfold tbBuildBody
  split
  · simp
  · split
    · simp
    · exact (buildLoop_ends _ s).andThen settleRoot_ends

/-- R161: `n_distinct` counts the leaves, so every leaf inserted is there. -/
theorem tbLeavesBody_ends {s : State} (h : s.Inv) : (tbLeavesBody s).Ends := by
  cases hft : s.ft with
  | none => simp [tbLeavesBody, hft]
  | some ft => simp [tbLeavesBody_of_table hft (h.ft_wf ft hft).2]

/-- R181: the walk from a live root through a well-formed arena ends, complete or overflowing. -/
theorem cgGenBody_ends {s : State} (h : s.Inv) : (cgGenBody s).Ends := by
  cases ha : s.arena with
  | none => simp [cgGenBody, ha]
  | some a =>
    cases hroot : s.rootValid with
    | false => simp [cgGenBody, ha, hroot]
    | true =>
      have hlt : s.root.toNat < a.nodes.length := by simpa [arenaLen, ha] using h.root_wf hroot
      rcases cgGen_cases ha hroot (h.arena_wf a ha) hlt with ⟨-, he⟩ | ⟨-, nodes, code, he, -⟩
      · exact commandBody_ends_of_exec he
      · exact commandBody_ends_of_exec he

/-! The commands and the step. -/

theorem component_ends (i : Instr) (hc : i ≠ .compress) (hd : i ≠ .decompress) {s : State}
    (h : s.Inv) : (commandBody i s).Ends := by
  cases i with
  | compress => exact absurd rfl hc
  | decompress => exact absurd rfl hd
  | ftCount => exact ftCountBody_ends s
  | pqInit cap => exact pqInitBody_ends cap s
  | pqInsert idx freq => exact pqInsertBody_ends idx freq s
  | pqExtract2 => exact (heapExtract2_ends s).bind fun _ _ => Res.ends_ok _
  | tbLeaves => exact tbLeavesBody_ends h
  | tbBuild => exact tbBuildBody_ends s
  | cgGen => exact cgGenBody_ends h
  | bpPack => exact bpPackBody_ends s
  | buUnpack => exact buUnpackBody_ends s
  | serWrite => exact serWriteBody_ends s
  | serRead => exact serReadBody_ends s
  | release => exact Res.ends_ok _

/-- A stage of a composite runs in a state that meets the invariant, and keeps it. -/
theorem stage_ends (j : Instr) (hj : j ≠ .compress ∧ j ≠ .decompress) {m : Res Unit}
    (hm : m.Ends ∧ m.KeepsInv) :
    (m.andThen (commandBody j)).Ends ∧ (m.andThen (commandBody j)).KeepsInv :=
  ⟨hm.1.andThen_of_keepsInv hm.2 fun _ hu => component_ends j hj.1 hj.2 hu,
    hm.2.andThen fun _ hu => commandBody_keepsInv j hu⟩

theorem commandBody_ends (i : Instr) {s : State} (h : s.Inv) : (commandBody i s).Ends := by
  have start : (Res.ok () (snkTruncate (releaseAll s))).Ends ∧
      (Res.ok () (snkTruncate (releaseAll s))).KeepsInv :=
    ⟨Res.ends_ok _, h.releaseAll.snkTruncate⟩
  cases i with
  | compress =>
    exact (stage_ends .release (by decide) <| stage_ends .bpPack (by decide) <|
      stage_ends .serWrite (by decide) <| stage_ends .cgGen (by decide) <|
      stage_ends .tbBuild (by decide) <| stage_ends .tbLeaves (by decide) <|
      stage_ends .ftCount (by decide) start).1
  | decompress =>
    exact (stage_ends .release (by decide) <| stage_ends .buUnpack (by decide) <|
      stage_ends .serRead (by decide) start).1
  | _ => exact component_ends _ (by nofun) (by nofun) h

theorem act_answers (a : HostAction) {s : State} (h : s.Inv) : ∃ t, act a s = .next t := by
  cases a with
  | command w =>
    show ∃ t, issueWord w s = .next t
    cases hd : decode w with
    | ok i =>
      obtain ⟨t, ht⟩ := exec_answers (commandBody_ends i h)
      rw [issueWord_of_ok hd, ht]
      exact ⟨_, rfl⟩
    | reject k => exact ⟨_, issueWord_of_reject hd s⟩
  | bindSource bytes failAt => exact ⟨_, rfl⟩
  | bindSink failAt => exact ⟨_, rfl⟩
  | unbind => exact ⟨_, rfl⟩
  | readSink => exact ⟨_, rfl⟩
  | readReg n => exact ⟨_, rfl⟩
  | reset => exact ⟨_, rfl⟩

/-- Settles O11: in a state that meets the invariant no command gets stuck, and every other host
action answers as it stands. -/
theorem stepAlwaysAnswers : Obligations.StepAlwaysAnswers := by
  intro s h
  cases hq : s.hostq with
  | nil => exact ⟨s, step_of_hostq_nil hq⟩
  | cons a rest =>
    rw [step_of_hostq_cons hq]
    exact act_answers a (h.popped rest _)

end Sys2Proof.Machine
end

section
/-! PROOFS. No command looks at `result` or `done` (10_state.md R23), so a composite is the host
sequence of its stages (46_top_level.md R231, R234; O59 and O60 are settled from it below). -/

namespace Sys2Proof.Machine

/-- The same end, with `result` and `done` as a completion writes them. -/
def Res.completed {α : Type} : Res α → Res α
  | .ok a s => .ok a (complete s)
  | .raised k s => .raised k (complete s)
  | .stuck r => .stuck r

/-- The piece looks at neither `result` nor `done`, and leaves them as they are. -/
def IgnoresResult {α : Type} (f : State → Res α) : Prop :=
  ∀ s, f (complete s) = (f s).completed

section
variable {α β : Type}

theorem IgnoresResult.bind {f : State → Res α} {g : α → State → Res β} (hf : IgnoresResult f)
    (hg : ∀ a, IgnoresResult (g a)) : IgnoresResult fun s => (f s).bind g := by
  intro s
  dsimp only
  rw [hf s]
  cases f s with
  | ok a u => exact hg a u
  | raised k u => rfl
  | stuck r => rfl

theorem IgnoresResult.andThen {f g : State → Res Unit} (hf : IgnoresResult f)
    (hg : IgnoresResult g) : IgnoresResult fun s => (f s).andThen g :=
  hf.bind fun _ => hg

theorem IgnoresResult.ite {c : Prop} [Decidable c] {f g : State → Res α} (hf : IgnoresResult f)
    (hg : IgnoresResult g) : IgnoresResult fun s => if c then f s else g s := by
  intro s
  dsimp only
  split
  · exact hf s
  · exact hg s

/-- A piece that raises or goes on at once, after a change of other fields than the two. -/
theorem ignoresResult_raised (k : ErrorKind) : IgnoresResult (Res.raised k : State → Res α) :=
  fun _ => rfl

theorem ignoresResult_ok (a : α) : IgnoresResult (Res.ok a) := fun _ => rfl

end

/-! The streams. -/

theorem snkPut_ignoresResult (b : Byte) : IgnoresResult (snkPut b) := by
  have appended : IgnoresResult fun s => .ok () { s with snk := s.snk ++ [b] } := fun _ => rfl
  exact fun s => IgnoresResult.ite (ignoresResult_raised _)
    (.ite (ignoresResult_raised _) appended) s

theorem snkPutAll_ignoresResult (bs : List Byte) : IgnoresResult (snkPutAll bs) := by
  induction bs with
  | nil => exact ignoresResult_ok ()
  | cons b bs ih => exact (snkPut_ignoresResult b).andThen ih

/-- What `SrcNext` returns, with `result` and `done` as a completion writes them. -/
def SrcRead.completed : SrcRead → SrcRead
  | .byte b s => .byte b (complete s)
  | .eof => .eof
  | .err => .err

theorem srcNext_complete (s : State) : srcNext (complete s) = (srcNext s).completed := by
  unfold srcNext complete
  dsimp only
  split
  · rfl
  · split
    · rfl
    · cases s.src[s.srcPos]? <;> rfl

/-- A piece that reads a byte and goes on by what it is. -/
theorem ignoresResult_of_srcNext {α : Type} {f err eof : State → Res α}
    {byte : Byte → State → Res α}
    (hf : ∀ s, f s = match srcNext s with
      | .err => err s
      | .eof => eof s
      | .byte b u => byte b u)
    (herr : IgnoresResult err) (heof : IgnoresResult eof)
    (hbyte : ∀ b, IgnoresResult (byte b)) : IgnoresResult f := by
  intro s
  rw [hf, hf, srcNext_complete]
  cases srcNext s with
  | err => exact herr s
  | eof => exact heof s
  | byte b u => exact hbyte b u

theorem getLE_ignoresResult (n : Nat) : IgnoresResult (getLE n) := by
  induction n with
  | zero => exact ignoresResult_ok 0
  | succ n ih =>
    exact ignoresResult_of_srcNext (fun _ => rfl) (ignoresResult_raised _)
      (ignoresResult_raised _) fun b => ih.bind fun v => ignoresResult_ok _

theorem readRecord_ignoresResult : IgnoresResult readRecord :=
  (getLE_ignoresResult 1).bind fun _ => (getLE_ignoresResult 2).bind fun _ =>
    (getLE_ignoresResult 2).bind fun _ => ignoresResult_ok _

theorem readRecords_ignoresResult (n : Nat) : IgnoresResult (readRecords n) := by
  induction n with
  | zero => exact ignoresResult_ok []
  | succ n ih =>
    exact readRecord_ignoresResult.bind fun _ => ih.bind fun _ => ignoresResult_ok _

theorem serReadBody_ignoresResult : IgnoresResult serReadBody := by
  have tree (ts : Nat) (xs : List FinalNode) : IgnoresResult fun s =>
      if childrenInRange ts (placeRecords xs) = true then
        .ok () { s with ftree := some (placeRecords xs) }
      else .raised .invalidResource s :=
    IgnoresResult.ite (fun _ => rfl) (ignoresResult_raised _)
  have load (tc ts : Nat) : IgnoresResult (loadTree tc ts) := fun s =>
    IgnoresResult.ite (c := tc < Config.minTotalChars ∨ ts < Config.minTreeSize)
      (ignoresResult_raised _)
      (.ite (c := ts > Config.maxNodes) (ignoresResult_raised _)
        ((readRecords_ignoresResult ts).bind (tree ts)))
      { s with totalChars := BitVec.ofNat 32 tc, treeSize := BitVec.ofNat 16 ts }
  have header : IgnoresResult readHeader := fun s =>
    ((getLE_ignoresResult 4).bind fun tc => (getLE_ignoresResult 2).bind fun ts =>
      ignoresResult_ok (tc, ts)) (srcRewind s)
  intro s
  rw [serReadBody_eq, serReadBody_eq]
  exact (header.bind fun p => load p.1 p.2) s

theorem countLoop_ignoresResult (n : Nat) (ft : FreqTable) (t : Nat) :
    IgnoresResult (countLoop n ft t) := by
  induction n generalizing ft t with
  | zero => exact fun _ => rfl
  | succ n ih =>
    exact ignoresResult_of_srcNext (fun _ => rfl) (ignoresResult_raised _) (ignoresResult_ok _)
      fun b => .ite (ignoresResult_raised _) (ih _ _)

theorem ftCountBody_ignoresResult : IgnoresResult ftCountBody := fun s =>
  ((countLoop_ignoresResult (s.src.length + 1) _ 0).bind fun _ =>
    .ite (ignoresResult_raised _) fun _ => rfl) (srcRewind s)

theorem packBits_ignoresResult (bits : List Bool) (acc : Byte) (m : Nat) :
    IgnoresResult (packBits bits acc m) := by
  induction bits generalizing acc m with
  | nil => exact ignoresResult_ok _
  | cons b bs ih =>
    exact .ite ((snkPut_ignoresResult _).bind fun _ => ih 0 0) (ih _ _)

theorem packLoop_ignoresResult (code : CodeTable) (n : Nat) (acc : Byte) (m : Nat) :
    IgnoresResult (packLoop code n acc m) := by
  induction n generalizing acc m with
  | zero => exact fun _ => rfl
  | succ n ih =>
    exact ignoresResult_of_srcNext (fun _ => rfl) (ignoresResult_raised _) (ignoresResult_ok _)
      fun b => .ite (ignoresResult_raised _)
        ((packBits_ignoresResult _ _ _).bind fun p => ih p.1 p.2)

theorem putPartial_ignoresResult (acc : Byte) (m : Nat) : IgnoresResult (putPartial acc m) :=
  .ite (snkPut_ignoresResult _) (ignoresResult_ok ())

theorem bpPackBody_ignoresResult : IgnoresResult bpPackBody := by
  intro s
  cases hc : s.code with
  | none => simp only [bpPackBody, complete_code, hc, Res.completed]
  | some code =>
    simp only [bpPackBody, complete_code, hc]
    exact ((packLoop_ignoresResult code (s.src.length + 1) 0 0).bind fun p =>
      putPartial_ignoresResult p.1 p.2) (srcRewind s)

theorem walkBits_ignoresResult (f : Nat → FinalNode) (rt total : Nat) (bits : List Bool)
    (cur emitted : Nat) : IgnoresResult (walkBits f rt total bits cur emitted) := by
  induction bits generalizing cur emitted with
  | nil => exact ignoresResult_ok _
  | cons bit bits ih =>
    exact .ite (ignoresResult_raised _) (.ite
      ((snkPut_ignoresResult _).bind fun _ => .ite (ignoresResult_ok _) (ih _ _)) (ih _ _))

theorem unpackLoop_ignoresResult (f : Nat → FinalNode) (rt total n cur emitted : Nat) :
    IgnoresResult (unpackLoop f rt total n cur emitted) := by
  induction n generalizing cur emitted with
  | zero => exact fun _ => rfl
  | succ n ih =>
    refine .ite ?_ (ignoresResult_ok ())
    exact ignoresResult_of_srcNext (fun _ => rfl) (ignoresResult_raised _)
      (ignoresResult_raised _) fun b =>
        (walkBits_ignoresResult f rt total (bitsMsbFirst b) cur emitted).bind fun p => ih p.1 p.2

theorem buUnpackBody_ignoresResult : IgnoresResult buUnpackBody := by
  intro s
  cases hf : s.ftree with
  | none => simp only [buUnpackBody, complete_ftree, hf, Res.completed]
  | some nodes =>
    simp only [buUnpackBody, complete_ftree, hf]
    exact unpackLoop_ignoresResult _ _ _ _ _ 0 s

theorem serWriteBody_ignoresResult : IgnoresResult serWriteBody := by
  intro s
  unfold serWriteBody
  simp only [complete_arena]
  split
  · rfl
  · rename_i a _
    have put : IgnoresResult fun s => snkPutAll
        (headerAndTree s.totalChars (BitVec.ofNat 16 a.nodes.length) (a.nodes.map finalOf))
        { s with treeSize := BitVec.ofNat 16 a.nodes.length } := fun s =>
      snkPutAll_ignoresResult _ { s with treeSize := BitVec.ofNat 16 a.nodes.length }
    exact IgnoresResult.ite (c := s.ft.isNone ∨ s.rootValid = false) (ignoresResult_raised _)
      (.ite (c := s.root.toNat + 1 ≠ a.nodes.length) (ignoresResult_raised _) put) s

/-! The queue and the tree. -/

theorem heapInsert_ignoresResult (e : HeapEntry) : IgnoresResult (heapInsert e) := by
  intro s
  unfold heapInsert
  simp only [complete_pq]
  split
  · rfl
  · split <;> rfl

theorem heapExtract2_ignoresResult : IgnoresResult heapExtract2 := by
  intro s
  unfold heapExtract2
  simp only [complete_pq]
  split
  · rfl
  · split
    · rfl
    · split <;> rfl

theorem insertLeaves_ignoresResult (nodes : List WorkNode) (is : List Nat) :
    IgnoresResult (insertLeaves nodes is) := by
  induction is with
  | nil => exact ignoresResult_ok ()
  | cons i is ih =>
    intro s
    unfold insertLeaves
    split
    · rfl
    · exact (heapInsert_ignoresResult _).andThen ih s

theorem tbLeavesBody_ignoresResult : IgnoresResult tbLeavesBody := by
  intro s
  unfold tbLeavesBody
  simp only [complete_ft]
  split
  · rfl
  · rename_i ft _
    have last : IgnoresResult fun s => .ok () { s with rootValid := false, code := none } :=
      fun _ => rfl
    exact ((insertLeaves_ignoresResult (leavesOf ft) (List.range s.nDistinct.toNat)).andThen last)
      { s with arena := some { nodes := leavesOf ft, cap := s.nDistinct.setWidth 10 },
               pq := some { cap := s.nDistinct, entries := [] } }

theorem arenaAppend_ignoresResult (n : WorkNode) : IgnoresResult (arenaAppend n) := by
  intro s
  unfold arenaAppend
  simp only [complete_arena]
  split
  · rfl
  · split
    · split <;> rfl
    · rfl

theorem mergeStep_ignoresResult : IgnoresResult mergeStep := by
  refine heapExtract2_ignoresResult.bind fun p s => ?_
  have push : IgnoresResult fun u =>
      heapInsert { idx := BitVec.ofNat 10 (arenaLen u - 1), freq := p.1.freq + p.2.freq } u :=
    fun u => heapInsert_ignoresResult _ u
  exact IgnoresResult.ite (c := arenaLen s ≤ p.1.idx.toNat ∨ arenaLen s ≤ p.2.idx.toNat)
    (ignoresResult_raised _)
    (.ite (c := p.1.freq.toNat + p.2.freq.toNat ≥ Config.freqBound) (ignoresResult_raised _)
      ((arenaAppend_ignoresResult _).andThen push)) s

theorem buildLoop_ignoresResult (n : Nat) : IgnoresResult (buildLoop n) := by
  induction n with
  | zero => exact ignoresResult_ok ()
  | succ n ih =>
    intro s
    exact IgnoresResult.ite (mergeStep_ignoresResult.andThen ih) (ignoresResult_ok ()) s

theorem replaceFirst_complete (e : HeapEntry) (s : State) :
    replaceFirst e (complete s) = complete (replaceFirst e s) := by
  unfold replaceFirst
  simp only [complete_pq]
  split <;> rfl

theorem settleRoot_ignoresResult : IgnoresResult settleRoot := by
  intro s
  unfold settleRoot
  simp only [complete_arena, complete_pq]
  split
  · split
    · rfl
    · split
      · rfl
      · split
        · refine (arenaAppend_ignoresResult _).andThen (fun u => ?_) s
          have hlen : arenaLen (complete u) = arenaLen u := rfl
          simp only [hlen, replaceFirst_complete, Res.completed]
          rfl
        · rfl
  · rfl
  · rfl

theorem tbBuildBody_ignoresResult : IgnoresResult tbBuildBody := by
  intro s
  exact IgnoresResult.ite (ignoresResult_raised _) (.ite (ignoresResult_raised _)
    ((buildLoop_ignoresResult _).andThen settleRoot_ignoresResult)) s

theorem cgGenBody_ignoresResult : IgnoresResult cgGenBody := by
  intro s
  cases ha : s.arena with
  | none => simp only [cgGenBody, complete_arena, ha, Res.completed]
  | some a =>
    cases hr : s.rootValid with
    | false => simp only [cgGenBody, complete_arena, complete_rootValid, ha, hr, if_true,
        Res.completed]
    | true =>
      simp only [cgGenBody, complete_arena, complete_rootValid, complete_root, ha, hr]
      cases walkLoop (walkBound a.nodes.length) (clearMarks a.nodes) (Vector.replicate 256 [])
        [s.root.toNat] [] <;> rfl

/-! The commands. -/

/-- R23: no component command looks at the two fields that its end writes. -/
theorem component_ignoresResult (i : Instr) (hc : i ≠ .compress) (hd : i ≠ .decompress) :
    IgnoresResult (commandBody i) := by
  cases i with
  | compress => exact absurd rfl hc
  | decompress => exact absurd rfl hd
  | ftCount => exact ftCountBody_ignoresResult
  | pqInit cap =>
    intro s
    simp only [commandBody, pqInitBody]
    split <;> rfl
  | pqInsert idx freq =>
    intro s
    simp only [commandBody, pqInsertBody]
    split
    · rfl
    · exact heapInsert_ignoresResult _ s
  | pqExtract2 => exact heapExtract2_ignoresResult.bind fun _ _ => rfl
  | tbLeaves => exact tbLeavesBody_ignoresResult
  | tbBuild => exact tbBuildBody_ignoresResult
  | cgGen => exact cgGenBody_ignoresResult
  | bpPack => exact bpPackBody_ignoresResult
  | buUnpack => exact buUnpackBody_ignoresResult
  | serWrite => exact serWriteBody_ignoresResult
  | serRead => exact serReadBody_ignoresResult
  | release => exact fun _ => rfl

theorem failureEntry_complete (k : ErrorKind) (s : State) :
    failureEntry k (complete s) = failureEntry k s := by
  simp only [failureEntry_eq, complete]

/-- Either end of a command overwrites the two fields. -/
theorem finish_completed (m : Res Unit) : finish m.completed = finish m := by
  cases m with
  | ok a s => rfl
  | raised k s => exact congrArg Host.Outcome.next (failureEntry_complete k s)
  | stuck r => rfl

/-- A component command answers the same after a completion. -/
theorem exec_complete (i : Instr) (hc : i ≠ .compress) (hd : i ≠ .decompress) (s : State) :
    exec i (complete s) = exec i s := by
  rw [exec_eq_finish, exec_eq_finish, component_ignoresResult i hc hd s, finish_completed]

/-! Sequences of commands (R231, R234). -/

/-- The bodies of the commands in turn. -/
def bodies : List Instr → State → Res Unit
  | [], s => .ok () s
  | i :: is, s => (commandBody i s).andThen (bodies is)

/-- The stages of `COMPRESS` between two releases (R230, R231). -/
def compressStages : List Instr :=
  [.ftCount, .tbLeaves, .tbBuild, .cgGen, .serWrite, .bpPack, .release]

/-- The stages of `DECOMPRESS` between two releases (R233, R234). -/
def decompressStages : List Instr :=
  [.serRead, .buUnpack, .release]

/-- The state in which a composite's stages begin: no structure held, a bound sink empty. -/
def opened (s : State) : State :=
  complete (snkTruncate (releaseAll s))

theorem compressBody_eq_bodies (s : State) :
    compressBody s = bodies compressStages (snkTruncate (releaseAll s)) := by
  simp only [compressBody, compressStages, bodies, commandBody, Res.andThen, Res.bind_assoc]
  rfl

theorem decompressBody_eq_bodies (s : State) :
    decompressBody s = bodies decompressStages (snkTruncate (releaseAll s)) := by
  simp only [decompressBody, decompressStages, bodies, commandBody, Res.andThen, Res.bind_assoc]
  rfl

/-- Bodies in turn, finished once, answer as the commands in turn, each finished. -/
theorem issueAll_complete (is : List Instr) (hc : .compress ∉ is) (hd : .decompress ∉ is)
    (s : State) : issueAll is (complete s) = finish (bodies is s) := by
  induction is generalizing s with
  | nil => rfl
  | cons i is ih =>
    rw [List.mem_cons, not_or] at hc hd
    obtain ⟨hci, hc⟩ := hc
    obtain ⟨hdi, hd⟩ := hd
    rw [issueAll, exec_complete i (Ne.symm hci) (Ne.symm hdi), exec_eq_finish, bodies]
    cases commandBody i s with
    | ok a u => exact (if_pos rfl).trans (ih hc hd u)
    | raised k u => exact if_neg (by simp)
    | stuck r => rfl

/-- R231: `COMPRESS` issues its stages in turn on an empty session and sink. -/
theorem exec_compress_eq_issueAll (s : State) :
    exec .compress s = issueAll compressStages (opened s) := by
  rw [opened, issueAll_complete _ (by decide) (by decide), ← compressBody_eq_bodies]
  rfl

/-- R234: `DECOMPRESS` issues its stages in turn on an empty session and sink. -/
theorem exec_decompress_eq_issueAll (s : State) :
    exec .decompress s = issueAll decompressStages (opened s) := by
  rw [opened, issueAll_complete _ (by decide) (by decide), ← decompressBody_eq_bodies]
  rfl

theorem issueAll_cons_of_ok {i : Instr} {is : List Instr} {s t : State} (h : exec i s = .next t)
    (ht : t.result = .ok) : issueAll (i :: is) s = issueAll is t := by
  simp only [issueAll, h, ht, if_true]

theorem issueAll_cons_of_failed {i : Instr} {is : List Instr} {s t : State}
    (h : exec i s = .next t) (ht : t.result ≠ .ok) : issueAll (i :: is) s = .next t := by
  simp only [issueAll, h, ht, if_false]

/-- Where the sink is empty its truncation changes nothing. -/
theorem snkTruncate_of_nil {s : State} (h : s.snk = []) : snkTruncate s = s := by
  unfold snkTruncate
  split
  · rw [← h]
  · rfl

/-- R236: a release before the stages is how a composite starts on an empty sink. -/
theorem issueAll_release {s : State} (h : s.snk = []) (is : List Instr) :
    issueAll (.release :: is) s = issueAll is (opened s) := by
  rw [opened, snkTruncate_of_nil (s := releaseAll s) h]
  exact issueAll_cons_of_ok rfl rfl

end Sys2Proof.Machine
end

section
/-! PROOFS. `RELEASE` and `DECOMPRESS` (46_top_level.md R233 to R236, R241): the stages one after the
other on a file that loads (O53), how many symbols have gone to the sink where they succeed (O54),
and the host sequence (O60). -/

namespace Sys2Proof.Machine

theorem exec_release_eq (s : State) : exec .release s = .next (complete (releaseAll s)) := rfl

/-- Settles O50: the word is that of `RELEASE`, and the release is the whole command. -/
theorem releaseDropsSession : Obligations.ReleaseDropsSession :=
  ⟨decode_encode .release, exec_release_eq⟩

/-- R62, R66: a bound sink is empty when a composite's stages begin. -/
theorem opened_of_bound {s : State} (hb : s.snkBound = true) :
    opened s = { s with
      ft := none, arena := none, pq := none, rootValid := false, code := none, ftree := none,
      snk := [], result := .ok, done := true } := by
  simp only [opened, snkTruncate, releaseAll, complete, hb, if_true]

/-! A file that loads. -/

/-- R217: the state in which `SER_READ` leaves `DECOMPRESS` when it has loaded the tree of a file of
`n` symbols. -/
def treeLoaded (s : State) (n : Nat) (nodes : List FinalNode) : State :=
  { opened s with
    totalChars := BitVec.ofNat 32 n, treeSize := BitVec.ofNat 16 nodes.length,
    ftree := some nodes, srcPos := 6 + 5 * nodes.length }

/-- Settles O53: `SER_READ` loads the tree and `BU_UNPACK` walks the payload's paths. -/
theorem decompressWritesSymbols : Obligations.DecompressWritesSymbols := by
  intro s nodes payload paths syms pad hsb hsrc hlen hlen' htree hpaths hbits hsf hkb hkf
  have hmax : nodes.length ≤ 511 := htree.2.1
  have hopened := opened_of_bound hkb
  have hload : exec .serRead (opened s) = .next (treeLoaded s syms.length nodes) := by
    refine (serReadLoadsTree (opened s) syms.length nodes payload ?_ ?_ hlen hlen' htree ?_).trans
      (by rw [treeLoaded, hopened]) <;> rw [hopened]
    · exact hsb
    · exact hsrc
    · exact allows_mono (Nat.le_add_right _ _) hsf
  have hpayload : s.src.drop (6 + 5 * nodes.length) = payload := by
    rw [hsrc, ← length_fileHead syms.length nodes, List.drop_left]
  have hwalk := buUnpackWalksPaths (treeLoaded s syms.length nodes) nodes paths syms pad rfl
    (Nat.mod_eq_of_lt (by omega)) hpaths (Nat.mod_eq_of_lt hlen').symm
  simp only [treeLoaded, hopened, hpayload] at hload hwalk
  rw [exec_decompress_eq_issueAll, hopened, decompressStages, issueAll_cons_of_ok hload rfl,
    issueAll_cons_of_ok (hwalk hbits hsb hsf ⟨hkb, by simpa using hkf⟩) rfl]
  exact issueAll_cons_of_ok (exec_release_eq _) rfl

/-! How many symbols (R200, R241). -/

/-- The source position has moved, and `n` bytes have gone to the sink, which is bound if there was
one to take. -/
def PutCount (n : Nat) (s t : State) : Prop :=
  ∃ pos more, t = { s with srcPos := pos, snk := s.snk ++ more } ∧ more.length = n ∧
    (0 < n → s.snkBound = true)

/-- The failures of reading and walking (R235). -/
def ReadKind (k : ErrorKind) : Prop :=
  k = .fileAccessFailure ∨ k = .unexpectedEndOfInput ∨ k = .invalidResource

theorem PutCount.trans {m n : Nat} {s t u : State} (h : PutCount m s t) (h' : PutCount n t u) :
    PutCount (m + n) s u := by
  obtain ⟨pos, more, rfl, rfl, hb⟩ := h
  obtain ⟨pos', more', rfl, rfl, hb'⟩ := h'
  refine ⟨pos', more ++ more', by simp, by simp, fun hpos => ?_⟩
  rcases Nat.eq_zero_or_pos more.length with hm | hm
  · exact hb' (by omega)
  · exact hb hm

theorem putCount_moved (s : State) (pos : Nat) : PutCount 0 s { s with srcPos := pos } :=
  ⟨pos, [], by simp, rfl, fun h => absurd h (lt_irrefl 0)⟩

theorem snkPut_putCount (b : Byte) (s : State) :
    (snkPut b s).Meets (fun _ t => PutCount 1 s t) fun k _ => ReadKind k := by
  rcases snkPut_cases b s with ⟨⟨hb, -⟩, h⟩ | ⟨-, h⟩ <;> rw [h]
  · exact ⟨s.srcPos, [b], rfl, rfl, fun _ => hb⟩
  · exact .inl rfl

/-- R196: with symbols still to come a walk over some bits puts as many as it counts. -/
theorem walkBits_putCount (f : Nat → FinalNode) (rt total : Nat) (bits : List Bool)
    (cur emitted : Nat) (s : State) (hlt : emitted < total) :
    (walkBits f rt total bits cur emitted s).Meets
      (fun p t => ∃ n, p.2 = emitted + n ∧ p.2 ≤ total ∧ PutCount n s t)
      fun k _ => ReadKind k := by
  induction bits generalizing cur emitted s with
  | nil => exact ⟨0, rfl, hlt.le, putCount_moved s s.srcPos⟩
  | cons bit bits ih =>
    unfold walkBits
    dsimp only
    generalize (if bit = true then (f cur).right else (f cur).left) = nxt
    split
    · exact .inr (.inr rfl)
    · split
      · refine (snkPut_putCount _ s).bind fun _ u hu => ?_
        split
        · exact ⟨1, rfl, hlt, hu⟩
        · refine (ih rt (emitted + 1) u (by omega)).imp ?_ fun _ _ => id
          rintro p t ⟨n, hp, hle, ht⟩
          exact ⟨1 + n, by omega, hle, hu.trans ht⟩
      · exact ih _ _ s hlt

/-- R200: where the loop ends well it has put exactly the symbols that were still to come. -/
theorem unpackLoop_putCount (f : Nat → FinalNode) (rt total n cur emitted : Nat) (s : State)
    (hle : emitted ≤ total) :
    (unpackLoop f rt total n cur emitted s).Meets (fun _ t => PutCount (total - emitted) s t)
      fun k _ => ReadKind k := by
  induction n generalizing cur emitted s with
  | zero => trivial
  | succ n ih =>
    unfold unpackLoop
    split
    · rename_i hlt
      cases hr : srcNext s with
      | err => exact .inl rfl
      | eof => exact .inr (.inl rfl)
      | byte b u =>
        obtain ⟨-, -, -, rfl⟩ := srcNext_byte hr
        refine (walkBits_putCount f rt total _ cur emitted _ hlt).bind ?_
        rintro p v ⟨m, hp, hpt, hv⟩
        refine (ih p.1 p.2 v hpt).imp (fun _ t ht => ?_) fun _ _ => id
        have hput := ((putCount_moved s _).trans hv).trans ht
        rwa [show 0 + m + (total - p.2) = total - emitted by omega] at hput
    · have hdone : total - emitted = 0 := by omega
      rw [hdone]
      exact putCount_moved s s.srcPos

theorem buUnpackBody_putCount {s : State} (h : s.ftree ≠ none) :
    (buUnpackBody s).Meets (fun _ t => PutCount s.totalChars.toNat s t) fun k _ => ReadKind k := by
  obtain ⟨nodes, hft⟩ := Option.ne_none_iff_exists'.1 h
  rw [buUnpackBody_of_ftree hft]
  exact unpackLoop_putCount _ _ _ _ _ 0 s (Nat.zero_le _)

/-- R216: a number of `n` bytes. -/
theorem getLE_lt (n : Nat) (s : State) :
    (getLE n s).Meets (fun v _ => v < 256 ^ n) fun k _ => ReadKind k := by
  induction n generalizing s with
  | zero => exact Nat.zero_lt_one
  | succ n ih =>
    unfold getLE
    cases srcNext s with
    | err => exact .inl rfl
    | eof => exact .inr (.inl rfl)
    | byte b u =>
      refine (ih u).bind fun v w hv => ?_
      have hb := b.isLt
      show b.toNat + 256 * v < 256 ^ (n + 1)
      rw [pow_succ]
      omega

/-- R218: what the reader leaves is a tree, a count of at least two, and the sink as it was. -/
structure ReadyToUnpack (s t : State) : Prop where
  tree : t.ftree ≠ none
  count : 2 ≤ t.totalChars.toNat
  sink : t.snkBound = s.snkBound ∧ t.snk = s.snk

theorem loadTree_ready {tc : Nat} (ts : Nat) (s : State) (htc : tc < 256 ^ 4) :
    (loadTree tc ts s).Meets (fun _ => ReadyToUnpack s) fun k _ => ReadKind k := by
  unfold loadTree
  dsimp only
  split
  · exact .inr (.inr rfl)
  · rename_i hmin
    split
    · exact .inr (.inr rfl)
    · rcases readRecords_cases ts { s with
          totalChars := BitVec.ofNat 32 tc, treeSize := BitVec.ofNat 16 ts } with
        ⟨xs, -, h⟩ | ⟨k, p, hk, -, h⟩ <;> rw [h]
      · rw [Res.bind_ok]
        split
        · have hcount : (BitVec.ofNat 32 tc).toNat = tc := Nat.mod_eq_of_lt htc
          rw [not_or, Nat.not_lt] at hmin
          exact ⟨nofun, hmin.1.trans_eq hcount.symm, rfl, rfl⟩
        · exact .inr (.inr rfl)
      · exact hk.elim .inl fun h => .inr (.inl h)

theorem serReadBody_ready (s : State) :
    (serReadBody s).Meets (fun _ => ReadyToUnpack s) fun k _ => ReadKind k := by
  rw [serReadBody_eq]
  have header : (readHeader s).Meets
      (fun p t => p.1 < 256 ^ 4 ∧ ∃ pos, t = { s with srcPos := pos }) fun k _ => ReadKind k := by
    unfold readHeader
    have htc := getLE_lt 4 (srcRewind s)
    rcases getLE_cases 4 (srcRewind s) with ⟨v, h⟩ | ⟨k, p, hk, -, h⟩ <;> rw [h] at htc ⊢
    · rw [Res.bind_ok]
      rcases getLE_cases 2 { srcRewind s with srcPos := (srcRewind s).srcPos + 4 } with
        ⟨w, h'⟩ | ⟨k, p, hk, -, h'⟩ <;> rw [h']
      · exact ⟨htc, _, rfl⟩
      · exact hk.elim .inl fun h => .inr (.inl h)
    · exact htc
  refine header.bind ?_
  rintro p _ ⟨hp, pos, rfl⟩
  exact (loadTree_ready p.2 _ hp).imp (fun _ t ht => ⟨ht.tree, ht.count, ht.sink⟩) fun _ _ => id

theorem decompressBody_ends (s : State) : (decompressBody s).Ends :=
  ((serReadBody_ends _).andThen buUnpackBody_ends).andThen fun _ => Res.ends_ok _

/-- R235, R241: the symbols that went to the sink are all it holds, since one of at least two went
and so it was bound and had been emptied. -/
theorem decompressBody_outcomes (s : State) :
    (decompressBody s).Meets (fun _ t => t.snk.length = t.totalChars.toNat)
      fun k _ => ReadKind k := by
  refine Res.Meets.andThen (P := fun _ t => t.snk.length = t.totalChars.toNat) ?_ fun _ => id
  refine (serReadBody_ready (snkTruncate (releaseAll s))).andThen fun u hu => ?_
  refine (buUnpackBody_putCount hu.tree).imp ?_ fun _ _ => id
  rintro _ t ⟨pos, more, rfl, hmore, hbound⟩
  obtain ⟨hb, hsnk⟩ := hu.sink
  have hbound := hb.symm.trans (hbound (by have := hu.count; omega))
  rw [snkTruncate_snk, if_pos (by simpa using hbound)] at hsnk
  simpa [hsnk] using hmore

/-- Settles O54: neither stage gets stuck, and the completion keeps the sink and the count. -/
theorem decompressOutcomes : Obligations.DecompressOutcomes := by
  intro s
  obtain ⟨t, ht⟩ := exec_answers (i := .decompress) (decompressBody_ends s)
  refine ⟨t, ht, ?_⟩
  rcases exec_of_meets ht (decompressBody_outcomes s) with ⟨u, hu, rfl⟩ | ⟨k, u, hk, rfl⟩
  · exact .inl ⟨rfl, hu⟩
  · exact .inr (by simpa [ReadKind] using hk)

/-- Settles O60: no stage looks at the two fields that the end of the one before has written. -/
theorem decompressIsItsStages : Obligations.DecompressIsItsStages := by
  intro s hs
  obtain ⟨t, ht⟩ := exec_answers (i := .decompress) (decompressBody_ends s)
  refine ⟨t, t, ht, ?_, rfl, rfl⟩
  rw [issueAll_release hs, ← ht, exec_decompress_eq_issueAll, decompressStages]

end Sys2Proof.Machine
end

section
/-! PROOFS. The code tree of a source (46_top_level.md R231, R232; 30_encoding.md R110): what
`TB_LEAVES`, `TB_BUILD` and `CG_GEN` leave is a function of the frequency table; every node is below
the last, so every byte that occurs gets a code. -/

namespace Sys2Proof.Machine

variable {a a₀ : Arena} {q q₀ : Queue} {x y e : HeapEntry} {h' : List HeapEntry} {N : Nat}

/-! The nodes below a node. -/

theorem mem_below_of_child {tree : List FinalNode} {i c j : Nat} {b : Bool}
    (hc : childAt tree i b = some c) (hj : j ∈ below tree c) : j ∈ below tree i := by
  obtain ⟨p, hp⟩ := hj
  exact ⟨b :: p, by simpa [reach_cons, hc] using hp⟩

theorem childAt_append {tree : List FinalNode} {i c : Nat} {b : Bool}
    (hc : childAt tree i b = some c) (more : List FinalNode) :
    childAt (tree ++ more) i b = some c := by
  have hi := lt_length_of_childAt hc
  rw [← hc, childAt, childAt, List.getElem?_append_left hi]

/-- Nodes behind the others add no path to lose. -/
theorem below_subset_append (tree more : List FinalNode) (i : Nat) :
    below tree i ⊆ below (tree ++ more) i := by
  rintro j ⟨p, hp⟩
  refine ⟨p, ?_⟩
  induction p generalizing i with
  | nil =>
    obtain ⟨hi, rfl⟩ : i < tree.length ∧ i = j := by simpa [reach] using hp
    exact reach_nil (hi.trans_le (by simp))
  | cons b p ih =>
    rw [reach_cons] at hp
    obtain ⟨c, hc, hp⟩ := Option.bind_eq_some_iff.1 hp
    rw [reach_cons, childAt_append hc]
    exact ih c hp

theorem finalsOf_withNode (a : Arena) (n : WorkNode) :
    finalsOf (withNode a n) = finalsOf a ++ [finalOf n] := by
  simp [finalsOf, withNode, finalOf]

theorem length_withNode (a : Arena) (n : WorkNode) :
    (withNode a n).nodes.length = a.nodes.length + 1 :=
  List.length_append

theorem length_finalsOf (a : Arena) : (finalsOf a).length = a.nodes.length := by
  simp [finalsOf]

/-- A new last node has below it what is below its children. -/
theorem mem_below_withNode {n : WorkNode} {c : NodeIdx} {j : Nat} {b : Bool}
    (hn : (if b then n.right else n.left) = childOf c) (hj : j ∈ below (finalsOf a) c.toNat) :
    j ∈ below (finalsOf (withNode a n)) a.nodes.length := by
  rw [finalsOf_withNode]
  refine mem_below_of_child (b := b) (c := c.toNat) ?_ (below_subset_append _ _ _ hj)
  have hlast : (finalsOf a ++ [finalOf n])[a.nodes.length]? = some (finalOf n) := by
    rw [← length_finalsOf]
    exact List.getElem?_concat_length
  have hslot : (if b then (finalOf n).right else (finalOf n).left) = childOf c := hn
  rw [childAt_of_node hlast, hslot, if_neg (childOf_ne_noChild c), childOf_toNat]

theorem last_mem_below_withNode (a : Arena) (n : WorkNode) :
    a.nodes.length ∈ below (finalsOf (withNode a n)) a.nodes.length :=
  mem_below_self (by simp [finalsOf_withNode, length_finalsOf])

/-! Down to one root (R165), from every state that holds the arena and the queue. -/

/-- Every node is below the node of some entry, and the nodes from `N` on have two children. -/
structure Covered (N : Nat) (a : Arena) (q : Queue) : Prop where
  reached : ∀ i < a.nodes.length, ∃ e ∈ q.entries, i ∈ below (finalsOf a) e.idx.toNat
  forked : ∀ n ∈ a.nodes.drop N, n.right ≠ Config.noChild

theorem Covered.merge {s : State} (h : Covered N a q) (hx : TwoTaken s a q x y h')
    (hwf : ArenaWf a) (hN : N ≤ a.nodes.length) :
    Covered N (withNode a (mergedNode x y)) (mergedQueue a q x y h') where
  reached i hi := by
    have hidx : (mergedEntry a x y).idx.toNat = a.nodes.length := hwf.toNat_ofNat_length
    have hnew : mergedEntry a x y ∈ (mergedQueue a q x y h').entries :=
      (heapPush_perm _ _).mem_iff.2 List.mem_cons_self
    rw [length_withNode] at hi
    rcases Nat.lt_succ_iff_lt_or_eq.1 hi with hi | rfl
    · obtain ⟨e, he, hbelow⟩ := h.reached i hi
      rcases List.mem_cons.1 (hx.perm.mem_iff.2 he) with rfl | he
      · exact ⟨_, hnew, hidx ▸ mem_below_withNode (b := false) mergedNode_left hbelow⟩
      · rcases List.mem_cons.1 he with rfl | he
        · exact ⟨_, hnew, hidx ▸ mem_below_withNode (b := true) mergedNode_right hbelow⟩
        · refine ⟨e, (heapPush_perm _ _).mem_iff.2 (List.mem_cons_of_mem _ he), ?_⟩
          rw [finalsOf_withNode]
          exact below_subset_append _ _ _ hbelow
    · refine ⟨_, hnew, ?_⟩
      rw [hidx]
      exact last_mem_below_withNode a _
  forked n hn := by
    rcases mem_drop_append_singleton hN hn with hold | rfl
    · exact h.forked n hold
    · rw [mergedNode_right]
      exact childOf_ne_noChild _

/-- A state that holds an arena and a queue. -/
def Holds (s : State) (a : Arena) (q : Queue) : Prop :=
  s.arena = some a ∧ s.pq = some q

/-- The merges down to one entry depend on the arena and the queue alone. -/
theorem MergedFrom.exists_one_covered {k : Nat} (hsum : totalFreq q₀.entries < Config.freqBound)
    (hroom : a₀.nodes.length + max 1 (q₀.entries.length - 1) ≤ topCap a₀)
    (h : MergedFrom a₀ q₀ a q) (hc : Covered a₀.nodes.length a q)
    (hk : q.entries.length = k + 1) :
    ∃ a' q' e, MergedFrom a₀ q₀ a' q' ∧ Covered a₀.nodes.length a' q' ∧ q'.entries = [e] ∧
      ∀ s, Holds s a q → tbBuildBody s = tbBuildBody { s with arena := some a', pq := some q' } := by
  induction k generalizing a q with
  | zero =>
    obtain ⟨e, he⟩ := List.length_eq_one_iff.1 hk
    exact ⟨a, q, e, h, hc, he, fun s hs => by rw [← hs.1, ← hs.2]⟩
  | succ k ih =>
    obtain ⟨x, y, h', hx⟩ := twoTaken_of_two_le
      (s := { State.reset with arena := some a, pq := some q }) rfl rfl (by omega)
    have hm := h.can_merge hx hsum hroom
    obtain ⟨-, -, hcap, -⟩ := h.queue_wf
    have hlen : (mergedQueue a q x y h').entries.length = k + 1 := by
      have := hx.length
      rw [mergedQueue, heapPush_length]
      omega
    obtain ⟨a', q', e, hmerged, hcovered, he, hbody⟩ :=
      ih (h.merge hx hm) (hc.merge hx h.arena_wf h.old.length_le) hlen
    refine ⟨a', q', e, hmerged, hcovered, he, fun s hs => ?_⟩
    have hxs : TwoTaken s a q x y h' := ⟨hs.1, hs.2, hx.pops⟩
    exact (tbBuildBody_of_mergeOnce (hxs.mergeOnce_eq hcap hm)).trans (hbody _ ⟨rfl, rfl⟩)

/-! The tree over the leaves of a table (R161 to R168). -/

/-- What `TB_LEAVES` makes of a table. -/
def leafArena (ft : FreqTable) : Arena :=
  { nodes := leavesOf ft, cap := BitVec.ofNat 10 (distinctCount ft) }

/-- The queue that `TB_LEAVES` makes of a table. -/
def leafQueue (ft : FreqTable) : Queue :=
  { cap := BitVec.ofNat 9 (distinctCount ft),
    entries := ((leavesOf ft).zipIdx.map entryOf).foldl heapPush [] }

/-- A finished tree over the leaves: they stand first, the other nodes are internal, one above a
single leaf and else each with two children, and every node is below the last. -/
structure TreeOver (leaves : List WorkNode) (a : Arena) : Prop where
  wf : ArenaWf a
  leaves_first : leaves <+: a.nodes
  size : a.nodes.length = if leaves.length = 1 then 2 else 2 * leaves.length - 1
  inner : ∀ n ∈ a.nodes.drop leaves.length,
    n.sym = 0x00 ∧ n.isLeaf = false ∧ (n.right = Config.noChild ↔ leaves.length = 1)
  reached : ∀ i < a.nodes.length, i ∈ below (finalsOf a) (a.nodes.length - 1)

section
variable {ft : FreqTable}

theorem toNat_ofNat_distinctCount {w : Nat} (hw : 9 ≤ w) (ft : FreqTable) :
    (BitVec.ofNat w (distinctCount ft)).toNat = distinctCount ft := by
  have hle := distinctCount_le ft
  have hpow : 2 ^ 9 ≤ 2 ^ w := Nat.pow_le_pow_right (by omega) hw
  rw [BitVec.toNat_ofNat]
  exact Nat.mod_eq_of_lt (by omega)

theorem exec_tbLeaves_of_table {s : State} (hft : s.ft = some ft)
    (hd : s.nDistinct = BitVec.ofNat 9 (distinctCount ft)) :
    exec .tbLeaves s = .next { s with
      arena := some (leafArena ft), pq := some (leafQueue ft), rootValid := false, code := none,
      result := .ok, done := true } := by
  have hcount := toNat_ofNat_distinctCount (le_refl 9) ft
  have hbody := tbLeavesBody_of_table hft (hd ▸ hcount)
  rw [hd, hcount, ← leafArena, ← leafQueue, ← hd] at hbody
  exact exec_of_body_ok (i := .tbLeaves) hbody

theorem leafQueue_perm (ft : FreqTable) :
    (leafQueue ft).entries.Perm ((leavesOf ft).zipIdx.map entryOf) := by
  simpa [leafQueue] using foldl_heapPush_perm ((leavesOf ft).zipIdx.map entryOf) []

theorem leafQueue_length (ft : FreqTable) : (leafQueue ft).entries.length = distinctCount ft := by
  simp [(leafQueue_perm ft).length_eq, leavesOf_length]

/-- R161: an entry names its leaf. -/
theorem mem_leafQueue {i : Nat} :
    (∃ e ∈ (leafQueue ft).entries, e.idx.toNat = i) ↔ i < (leavesOf ft).length := by
  have hsmall : (leavesOf ft).length ≤ 256 := (leavesOf_length ft).trans_le (distinctCount_le ft)
  constructor
  · rintro ⟨e, he, rfl⟩
    obtain ⟨p, hp, rfl⟩ := List.mem_map.1 ((leafQueue_perm ft).mem_iff.1 he)
    have hi := (List.getElem?_eq_some_iff.1 (List.mem_zipIdx_iff_getElem?.1 hp)).1
    exact (BitVec.toNat_ofNat p.2 10).trans_lt ((Nat.mod_le _ _).trans_lt hi)
  · intro hi
    have hmem : ((leavesOf ft)[i], i) ∈ (leavesOf ft).zipIdx :=
      List.mem_zipIdx_iff_getElem?.2 (List.getElem?_eq_getElem hi)
    exact ⟨_, (leafQueue_perm ft).mem_iff.2 (List.mem_map_of_mem hmem),
      Nat.mod_eq_of_lt (by omega)⟩

theorem leaves_covered : Covered (leafArena ft).nodes.length (leafArena ft) (leafQueue ft) where
  reached i hi := by
    obtain ⟨e, he, rfl⟩ := mem_leafQueue.2 hi
    exact ⟨e, he, mem_below_self (by rw [length_finalsOf]; exact hi)⟩
  forked := by simp

section
variable (hpos : 1 ≤ distinctCount ft)
include hpos

theorem leafArena_wf : ArenaWf (leafArena ft) := by
  have hcount := toNat_ofNat_distinctCount (le_refl 9) ft
  have hwf := leaves_arenaWf hcount hpos
  rwa [← BitVec.ofNat_toNat, hcount] at hwf

theorem leaves_mergedFrom :
    MergedFrom (leafArena ft) (leafQueue ft) (leafArena ft) (leafQueue ft) where
  arena_wf := leafArena_wf hpos
  queue_wf := by
    have hcap : (leafQueue ft).cap.toNat = distinctCount ft :=
      toNat_ofNat_distinctCount (le_refl 9) ft
    exact ⟨hcap ▸ hpos, hcap ▸ distinctCount_le ft, (hcap ▸ leafQueue_length ft).le,
      foldl_heapPush_ordered _ fun _ hi => absurd hi (Nat.not_lt_zero _)⟩
  old := List.prefix_rfl
  new := by simp
  live e he := mem_leafQueue.1 ⟨e, he, rfl⟩
  cap_eq := rfl
  total := rfl
  count := rfl
  last hlt := absurd hlt (lt_irrefl _)
  grown := le_rfl

/-- R163: one doubling makes room for every node of the tree. -/
theorem leafArena_room : (leafArena ft).nodes.length +
    max 1 ((leafQueue ft).entries.length - 1) ≤ topCap (leafArena ft) := by
  have hle := distinctCount_le ft
  have hcap : (leafArena ft).cap.toNat = distinctCount ft :=
    toNat_ofNat_distinctCount (by decide) ft
  have hlen : (leafArena ft).nodes.length = distinctCount ft := leavesOf_length ft
  rw [hlen, leafQueue_length, topCap, hcap,
    if_pos (show 2 * distinctCount ft ≤ 512 by omega)]
  omega

end

section
variable (h : MergedFrom (leafArena ft) (leafQueue ft) a q) (he : q.entries = [e])
  (hc : Covered (leafArena ft).nodes.length a q)
include h he

theorem MergedFrom.length_of_leaves : a.nodes.length + 1 = 2 * distinctCount ft := by
  have hleaves : (leafArena ft).nodes.length = distinctCount ft := leavesOf_length ft
  rw [h.length_of_one he, leafQueue_length, hleaves, Nat.two_mul]

/-- With one leaf there is nothing to merge. -/
theorem MergedFrom.nodes_of_single (hone : distinctCount ft = 1) : a.nodes = leavesOf ft := by
  have hlen := h.length_of_leaves he
  refine (h.old.eq_of_length ?_).symm
  rw [show (leafArena ft).nodes.length = distinctCount ft from leavesOf_length ft]
  omega

include hc

/-- R165: with two or more leaves the merges end in a tree. -/
theorem MergedFrom.treeOver_of_two (htwo : 2 ≤ distinctCount ft) : TreeOver (leavesOf ft) a where
  wf := h.arena_wf
  leaves_first := h.old
  size := by
    have hlen := h.length_of_leaves he
    rw [leavesOf_length, if_neg (by omega)]
    omega
  inner n hn := by
    obtain ⟨hsym, -, hint⟩ := h.new n hn
    have hleaves := leavesOf_length ft
    exact ⟨hsym, hint, iff_of_false (hc.forked n hn) (by omega)⟩
  reached i hi := by
    have hlast := h.last_of_one he (htwo.trans_eq (leafQueue_length ft).symm)
    obtain ⟨e', he', hbelow⟩ := hc.reached i hi
    obtain rfl : e' = e := by simpa [he] using he'
    rwa [← hlast, Nat.add_sub_cancel]

/-- R168: a single leaf gets a root above it. -/
theorem MergedFrom.treeOver_of_single (hone : distinctCount ft = 1) (hp : HasPlace a) :
    TreeOver (leavesOf ft) (withNode a (rootAbove e)) := by
  have hnodes := h.nodes_of_single he hone
  have hleaves := (leavesOf_length ft).trans hone
  have hei := h.live e (by simp [he])
  exact {
    wf := h.arena_wf.addNode hp (nodeWf_of_children (rootAbove_left e) hei (.inl rfl))
    leaves_first := hnodes ▸ List.prefix_append _ _
    size := by rw [length_withNode, hnodes, hleaves, if_pos rfl]
    inner := fun n hn => by
      obtain rfl : n = rootAbove e := by simpa [withNode, hnodes] using hn
      exact ⟨rfl, isLeaf_eq_false_of_left (rootAbove_left e), iff_of_true rfl hleaves⟩
    reached := fun i hi => by
      rw [length_withNode] at hi ⊢
      rw [Nat.add_sub_cancel]
      rcases Nat.lt_succ_iff_lt_or_eq.1 hi with hi | rfl
      · obtain ⟨e', he', hbelow⟩ := hc.reached i hi
        obtain rfl : e' = e := by simpa [he] using he'
        exact mem_below_withNode (b := false) (rootAbove_left e') hbelow
      · exact last_mem_below_withNode a _ }

end

/-- R165 to R168: `TB_BUILD` finishes the tree, the same from every state that holds the leaves and
their queue. -/
theorem exists_treeOver (hpos : 1 ≤ distinctCount ft)
    (hsum : totalFreq (leafQueue ft).entries < Config.freqBound) :
    ∃ a q, TreeOver (leavesOf ft) a ∧ ∀ s, Holds s (leafArena ft) (leafQueue ft) →
      tbBuildBody s = .ok () { s with
        arena := some a, pq := some q, root := BitVec.ofNat 10 (a.nodes.length - 1),
        rootValid := true, code := none } := by
  obtain ⟨a, q, e, h, hc, he, hbody⟩ := (leaves_mergedFrom hpos).exists_one_covered
    (k := distinctCount ft - 1) hsum (leafArena_room hpos) leaves_covered
    (by rw [leafQueue_length]; omega)
  obtain ⟨r, hn⟩ : ∃ r, a.nodes[e.idx.toNat]? = some r :=
    ⟨_, List.getElem?_eq_getElem (h.live e (by simp [he]))⟩
  have hqlen := leafQueue_length ft
  by_cases htwo : 2 ≤ distinctCount ft
  · have htwo' : 2 ≤ (leafQueue ft).entries.length := htwo.trans_eq hqlen.symm
    have hroot : e.idx = BitVec.ofNat 10 (a.nodes.length - 1) := by
      rw [← h.last_of_one he htwo', Nat.add_sub_cancel, BitVec.ofNat_toNat, BitVec.setWidth_eq]
    refine ⟨a, { q with entries := [e] }, h.treeOver_of_two he hc htwo, fun s hs => ?_⟩
    cases hleaf : r.isLeaf with
    | false =>
      rw [hbody s hs, tbBuildBody_of_internal h.arena_wf rfl rfl he hn hleaf, hroot]
    | true => exact absurd htwo' (h.not_two_le_of_leaf he hn hleaf)
  · have hone : distinctCount ft = 1 := by omega
    have hleaf := isLeaf_of_mem_leavesOf (h.nodes_of_single he hone ▸ List.mem_of_getElem? hn)
    have hp := h.hasPlace_of_one he (by omega) (leafArena_room hpos)
    refine ⟨withNode a (rootAbove e),
      { q with entries := [{ idx := BitVec.ofNat 10 a.nodes.length, freq := e.freq }] },
      h.treeOver_of_single he hc hone hp, fun s hs => ?_⟩
    rw [hbody s hs, tbBuildBody_of_leaf h.arena_wf rfl rfl he hn hleaf hp, length_withNode,
      Nat.add_sub_cancel]

end

end Sys2Proof.Machine
end

section
/-! PROOFS. The codes of a source (30_encoding.md R105, R110; 46_top_level.md R231): the three stages
between the counting and the writing answer, from every state with the source's table, with one tree
and one code table. -/

namespace Sys2Proof.Machine

/-! The table of a source (40_frequency_table.md R130, R131). -/

section
variable {src : List Byte}

/-- Within `MAX_INPUT` bytes the entries that are not 0 are those of the bytes that occur. -/
theorem tableGet_countsOf_ne_zero (hmax : src.length ≤ Config.maxInput) (b : Byte) :
    tableGet (countsOf src) b ≠ 0 ↔ b ∈ src := by
  have hlt : src.count b < 2 ^ 32 := (List.count_le_length.trans hmax).trans_lt (by decide)
  rw [tableGet_countsOf, ne_eq, ← BitVec.toNat_inj, BitVec.toNat_ofNat, Nat.mod_eq_of_lt hlt]
  exact not_congr List.count_eq_zero |>.trans not_not

theorem one_le_distinctOf (h : 1 ≤ src.length) (hmax : src.length ≤ Config.maxInput) :
    1 ≤ distinctOf src := by
  rw [← distinctCount_countsOf hmax]
  obtain ⟨b, hb⟩ := List.exists_mem_of_length_pos h
  exact distinctCount_pos ((tableGet_countsOf_ne_zero hmax b).2 hb)

/-- The bytes that occur, in ascending order (R162). -/
def bytesOf (src : List Byte) : List Byte :=
  ((List.range 256).map (BitVec.ofNat 8)).filter fun b => src.contains b

theorem leavesOf_countsOf (hmax : src.length ≤ Config.maxInput) :
    leavesOf (countsOf src) = (bytesOf src).map (leafFor (countsOf src)) := by
  rw [leavesOf_eq_map, bytesOf]
  refine congrArg _ (List.filter_congr fun b _ => ?_)
  rw [List.contains_eq_mem]
  exact decide_eq_decide.2 (tableGet_countsOf_ne_zero hmax b)

theorem leafFor_freq (ft : FreqTable) (b : Byte) : (leafFor ft b).freq = tableGet ft b := rfl

theorem nodup_bytesOf (src : List Byte) : (bytesOf src).Nodup := by
  refine List.Nodup.filter _ ((List.nodup_map_iff_inj_on List.nodup_range).2 fun i hi j hj h => ?_)
  have := congrArg BitVec.toNat h
  rwa [BitVec.toNat_ofNat, BitVec.toNat_ofNat, Nat.mod_eq_of_lt (List.mem_range.1 hi),
    Nat.mod_eq_of_lt (List.mem_range.1 hj)] at this

/-- The leaves' frequencies sum up to no more than the source's length. -/
theorem totalFreq_leafQueue_le (hmax : src.length ≤ Config.maxInput) :
    totalFreq (leafQueue (countsOf src)).entries ≤ src.length := by
  have hfreqs : ((leavesOf (countsOf src)).zipIdx.map entryOf).map (fun e => e.freq.toNat) =
      (bytesOf src).map fun b => (tableGet (countsOf src) b).toNat := by
    rw [List.map_map, show (fun e => e.freq.toNat) ∘ entryOf =
      (fun n : WorkNode => n.freq.toNat) ∘ Prod.fst from rfl, ← List.map_map, List.zipIdx_map_fst,
      leavesOf_countsOf hmax, List.map_map]
    exact List.map_congr_left fun b _ => congrArg BitVec.toNat (leafFor_freq _ b)
  have hcard := Multiset.sum_count_eq_card (s := Finset.univ) (m := (src : Multiset Byte))
    fun b _ => Finset.mem_univ b
  calc totalFreq (leafQueue (countsOf src)).entries
      = ((bytesOf src).map fun b => (tableGet (countsOf src) b).toNat).sum := by
        rw [totalFreq_perm (leafQueue_perm _), totalFreq, hfreqs]
    _ ≤ ((bytesOf src).map fun b => src.count b).sum := by
        refine List.sum_le_sum fun b _ => ?_
        rw [tableGet_countsOf, BitVec.toNat_ofNat]
        exact Nat.mod_le _ _
    _ = ∑ b ∈ (bytesOf src).toFinset, src.count b := (List.sum_toFinset _ (nodup_bytesOf src)).symm
    _ ≤ ∑ b : Byte, src.count b := Finset.sum_le_sum_of_subset (Finset.subset_univ _)
    _ = src.length := by simpa only [Multiset.coe_count, Multiset.coe_card] using hcard

end

/-! The height of a tree (43_code_generator.md R183). -/

/-- With leaves up to index `N` a node is no higher than the internal nodes up to it are many. -/
theorem height_le_of_leaves {nodes : List WorkNode} {N : Nat}
    (hleaf : ∀ i n, i < N → nodes[i]? = some n → n.isLeaf = true) {i : Nat}
    (hi : i < nodes.length) : (heights nodes).getD i 0 ≤ i + 1 - N := by
  induction i using Nat.strong_induction_on with
  | _ i ih =>
    have hn := List.getElem?_eq_getElem hi
    rw [heights_getD hn, heightOver]
    split
    · exact Nat.zero_le _
    · rename_i hint
      have hN : N ≤ i := Nat.not_lt.1 fun h => hint (hleaf i _ h hn)
      have below (c : Nat) : (heights (nodes.take i)).getD c 0 ≤ i - N := by
        rcases Nat.lt_or_ge c i with hc | hc
        · rw [heights_getD_take hc hi]
          exact (ih c hc (hc.trans hi)).trans (by omega)
        · rw [List.getD_eq_default _ _ (by simp; omega)]
          exact Nat.zero_le _
      have hl := below nodes[i].left.toNat
      have hr := below nodes[i].right.toNat
      omega

section
variable {leaves : List WorkNode} {a : Arena} (h : TreeOver leaves a)
  (hleaf : ∀ n ∈ leaves, n.isLeaf = true) (hpos : 1 ≤ leaves.length) (hle : leaves.length ≤ 256)
include h

theorem TreeOver.getElem?_leaves {i : Nat} (hi : i < leaves.length) :
    a.nodes[i]? = leaves[i]? := by
  obtain ⟨more, hmore⟩ := h.leaves_first
  rw [← hmore, List.getElem?_append_left hi]

include hpos hle

theorem TreeOver.length_le : 2 ≤ a.nodes.length ∧ a.nodes.length ≤ 511 := by
  have hsize := h.size
  split at hsize <;> omega

include hleaf

/-- R181: the tree is not too high for the path store. -/
theorem TreeOver.height_le : (heights a.nodes).getD (a.nodes.length - 1) 0 ≤ 255 := by
  have hlen := h.length_le hpos hle
  refine (height_le_of_leaves (N := leaves.length) (fun i n hi hn => ?_) (by omega)).trans ?_
  · rw [h.getElem?_leaves hi] at hn
    exact hleaf n (List.mem_of_getElem? hn)
  · have hsize := h.size
    split at hsize <;> omega

end

/-! The code table (43_code_generator.md R181, R185). -/

/-- A `CG_GEN` that succeeds tells how the walk ended. -/
theorem startWalk_ends_of_exec {s : State} {a : Arena} {nodes : List WorkNode} {code : CodeTable}
    (ha : s.arena = some a) (hroot : s.rootValid = true)
    (h : exec .cgGen s = .next { s with
      arena := some { a with nodes := nodes }, code := some code, result := .ok, done := true }) :
    (startWalk a s.root.toNat).ends (walkBound a.nodes.length) = .done nodes code := by
  rw [exec_eq_finish, commandBody] at h
  cases hw : (startWalk a s.root.toNat).ends (walkBound a.nodes.length) with
  | done nodes' code' =>
    rw [cgGenBody_of_done ha hroot hw] at h
    have ht := Host.Outcome.next.inj h
    have harena := congrArg State.arena ht
    have hcode := congrArg State.code ht
    simp only [complete_arena, complete_code, Option.some.injEq, Arena.mk.injEq, and_true]
      at harena hcode
    rw [harena, hcode]
  | overflow =>
    rw [cgGenBody_of_overflow ha hroot hw] at h
    have hresult := congrArg State.result (Host.Outcome.next.inj h)
    rw [failureEntry_result] at hresult
    cases hresult
  | stuck r =>
    unfold Walk.ends startWalk at hw
    simp only [cgGenBody, ha, hroot, hw, Bool.true_eq_false, if_false, finish] at h
    cases h

/-- A finished tree's codes: one table, whatever state holds the tree, with each code the path to a
leaf of its symbol and a code for every leaf. -/
theorem TreeOver.exists_codes {leaves : List WorkNode} {a : Arena} (h : TreeOver leaves a)
    (hleaf : ∀ n ∈ leaves, n.isLeaf = true) (hpos : 1 ≤ leaves.length)
    (hle : leaves.length ≤ 256) :
    ∃ nodes code, unmarked nodes = unmarked a.nodes ∧
      (∀ n ∈ leaves, leafSym (finalsOf a) (a.nodes.length - 1) (tableGet code n.sym) = some n.sym) ∧
      ∀ s, s.arena = some a → s.rootValid = true → s.root.toNat = a.nodes.length - 1 →
        cgGenBody s = .ok () { s with
          arena := some { a with nodes := nodes }, code := some code } := by
  have ⟨hlen, hlen'⟩ := h.length_le hpos hle
  have hroot : (BitVec.ofNat 10 (a.nodes.length - 1)).toNat = a.nodes.length - 1 :=
    Nat.mod_eq_of_lt (by omega)
  obtain ⟨nodes, code, hexec, hsame, hleads, hcoded, -⟩ := cgGenRecordsLeafPaths
    { State.reset with
      arena := some a, root := BitVec.ofNat 10 (a.nodes.length - 1), rootValid := true }
    a rfl rfl h.wf (by rw [hroot]; omega) (by rw [hroot]; exact h.height_le hleaf hpos hle)
  have hends := startWalk_ends_of_exec rfl rfl hexec
  rw [hroot] at hends hleads hcoded
  refine ⟨nodes, code, hsame, fun n hn => hleads n.sym ?_, fun s ha hv hr =>
    cgGenBody_of_done ha hv (hr ▸ hends)⟩
  obtain ⟨i, hi, rfl⟩ := List.getElem_of_mem hn
  have hnode : a.nodes[i]? = some leaves[i] :=
    (h.getElem?_leaves hi).trans (List.getElem?_eq_getElem hi)
  have hilen := (List.getElem?_eq_some_iff.1 hnode).1
  obtain ⟨p, hp⟩ := h.reached i hilen
  refine hcoded p _ (leafSym_eq_some.2 ⟨?_, i, hp, _, finalsOf_of_node hnode, hleaf _ hn, rfl⟩)
  rintro rfl
  have hlast := eq_of_reach_nil hp
  have hsize := h.size
  split at hsize <;> omega

/-! The codes of a source. -/

/-- 30_encoding.md R105, R110: the tree array and the code table of a source. -/
structure Codes (src : List Byte) (nodes : List FinalNode) (code : CodeTable) : Prop where
  size : nodes.length = if distinctOf src = 1 then 2 else 2 * distinctOf src - 1
  syms : (nodes.take (distinctOf src)).map (fun n => n.sym) = bytesOf src
  leaves : ∀ n ∈ nodes.take (distinctOf src), n.isLeaf = true
  inner : ∀ i n, distinctOf src ≤ i → nodes[i]? = some n →
    n.sym = 0x00 ∧ n.isLeaf = false ∧ n.left.toNat < i ∧
      if distinctOf src = 1 then n.right = Config.noChild else n.right.toNat < i
  paths : ∀ b ∈ src, leafSym nodes (nodes.length - 1) (tableGet code b) = some b

theorem finalsOf_eq_map (a : Arena) : finalsOf a = a.nodes.map finalOf := rfl

/-- The marks do not show in the final form. -/
theorem map_finalOf_of_unmarked {nodes nodes' : List WorkNode}
    (h : unmarked nodes = unmarked nodes') : nodes.map finalOf = nodes'.map finalOf := by
  have hfinal (ns : List WorkNode) : ns.map finalOf = (unmarked ns).map finalOf := by
    rw [unmarked, List.map_map]
    rfl
  rw [hfinal, hfinal nodes', h]

/-- An internal node of a well-formed arena (R33). -/
theorem children_of_nodeWf {n : WorkNode} {i : Nat} (h : nodeWf n i = true)
    (hint : n.isLeaf = false) :
    n.left.toNat < i ∧ (n.right = Config.noChild ∨ n.right.toNat < i) := by
  simp only [nodeWf, hint, Bool.false_or, Bool.and_eq_true, Bool.or_eq_true, beq_iff_eq,
    decide_eq_true_eq] at h
  obtain ⟨⟨-, hl⟩, hr⟩ := h
  exact ⟨hl, hr⟩

section
variable {src : List Byte} (hmax : src.length ≤ Config.maxInput)
include hmax

theorem TreeOver.codes {a : Arena} {code : CodeTable}
    (h : TreeOver (leavesOf (countsOf src)) a)
    (hcode : ∀ n ∈ leavesOf (countsOf src),
      leafSym (finalsOf a) (a.nodes.length - 1) (tableGet code n.sym) = some n.sym) :
    Codes src (finalsOf a) code := by
  have hcount : (leavesOf (countsOf src)).length = distinctOf src := by
    rw [leavesOf_length, distinctCount_countsOf hmax]
  have htake : (finalsOf a).take (distinctOf src) = (leavesOf (countsOf src)).map finalOf := by
    obtain ⟨more, hmore⟩ := h.leaves_first
    rw [← hcount, finalsOf_eq_map, ← hmore, List.map_append, List.take_left' (List.length_map _)]
  exact {
    size := by rw [length_finalsOf, h.size, hcount]
    syms := by
      rw [htake, leavesOf_countsOf hmax, List.map_map, List.map_map]
      exact List.map_id _
    leaves := fun n hn => by
      rw [htake] at hn
      obtain ⟨m, hm, rfl⟩ := List.mem_map.1 hn
      exact isLeaf_of_mem_leavesOf hm
    inner := fun i n hi hn => by
      rw [finalsOf_eq_map, List.getElem?_map] at hn
      obtain ⟨m, hm, rfl⟩ := Option.map_eq_some_iff.1 hn
      obtain ⟨hsym, hint, hright⟩ := h.inner m (mem_drop_of_getElem? (hcount.trans_le hi) hm)
      obtain ⟨-, -, -, hwf⟩ := h.wf
      obtain ⟨hl, hr⟩ := children_of_nodeWf (nodesWf_iff.1 hwf i m hm) hint
      refine ⟨hsym, hint, hl, ?_⟩
      rw [hcount] at hright
      split
      · next hone => exact hright.2 hone
      · next hone => exact hr.resolve_left fun hno => hone (hright.1 hno)
    paths := fun b hb => by
      rw [length_finalsOf]
      exact hcode _ (mem_leavesOf.2 ⟨b, (tableGet_countsOf_ne_zero hmax b).2 hb, rfl⟩) }

theorem distinctOf_le : distinctOf src ≤ 256 := by
  rw [← distinctCount_countsOf hmax]
  exact distinctCount_le _

theorem Codes.length_le {nodes : List FinalNode} {code : CodeTable} (h : Codes src nodes code)
    (hpos : 1 ≤ src.length) : 2 ≤ nodes.length ∧ nodes.length ≤ 511 := by
  have hone := one_le_distinctOf hpos hmax
  have hle := distinctOf_le hmax
  have hsize := h.size
  split at hsize <;> omega

/-- R231: from every state with the table of a source of 1 to 2^32 - 1 bytes the three commands
answer `OK`, with the same tree and codes. -/
theorem exists_codes (hpos : 1 ≤ src.length) :
    ∃ a q code, Codes src (finalsOf a) code ∧ ∀ s is, s.ft = some (countsOf src) →
      s.nDistinct = BitVec.ofNat 9 (distinctOf src) →
      issueAll (.tbLeaves :: .tbBuild :: .cgGen :: is) s = issueAll is { s with
        arena := some a, pq := some q, root := BitVec.ofNat 10 (a.nodes.length - 1),
        rootValid := true, code := some code, result := .ok, done := true } := by
  have hone := one_le_distinctOf hpos hmax
  have hle := distinctOf_le hmax
  have hcount := distinctCount_countsOf hmax
  have hleaves : (leavesOf (countsOf src)).length = distinctOf src := by
    rw [leavesOf_length, hcount]
  obtain ⟨a, q, htree, hbuild⟩ := exists_treeOver (ft := countsOf src) (hcount ▸ hone)
    ((totalFreq_leafQueue_le hmax).trans_lt (hmax.trans_lt (by decide)))
  obtain ⟨nodes, code, hsame, hcode, hgen⟩ := htree.exists_codes
    (fun n hn => isLeaf_of_mem_leavesOf hn) (hleaves ▸ hone) (hleaves ▸ hle)
  have hfinal : finalsOf { a with nodes := nodes } = finalsOf a := map_finalOf_of_unmarked hsame
  have hlen : nodes.length = a.nodes.length := by
    simpa [unmarked] using congrArg List.length hsame
  refine ⟨{ a with nodes := nodes }, q, code, hfinal ▸ htree.codes hmax hcode,
    fun s is hft hd => ?_⟩
  have hbound := htree.length_le (hleaves ▸ hone) (hleaves ▸ hle)
  have hroot : (BitVec.ofNat 10 (a.nodes.length - 1)).toNat = a.nodes.length - 1 :=
    Nat.mod_eq_of_lt (by omega)
  rw [issueAll_cons_of_ok (exec_tbLeaves_of_table hft (hcount ▸ hd)) rfl,
    issueAll_cons_of_ok (exec_of_body_ok (i := .tbBuild) (hbuild _ ⟨rfl, rfl⟩)) rfl,
    issueAll_cons_of_ok (exec_of_body_ok (i := .cgGen) (hgen _ rfl rfl hroot)) rfl, hlen]
  rfl

end

end Sys2Proof.Machine
end

section
/-! PROOFS. `COMPRESS` (46_top_level.md R230 to R232, R239, R240): the counting and coding stages as
one step, the three ends of the writing stages, and what of it the streams alone decide (O51, O52,
O58, O59). -/

namespace Sys2Proof.Machine

/-! The start of a composite. -/

@[simp] theorem opened_srcBound (s : State) : (opened s).srcBound = s.srcBound := by simp [opened]
@[simp] theorem opened_src (s : State) : (opened s).src = s.src := by simp [opened]
@[simp] theorem opened_srcFailAt (s : State) : (opened s).srcFailAt = s.srcFailAt := by
  simp [opened]
@[simp] theorem opened_snkBound (s : State) : (opened s).snkBound = s.snkBound := by simp [opened]
@[simp] theorem opened_snkFailAt (s : State) : (opened s).snkFailAt = s.snkFailAt := by
  simp [opened]

theorem opened_snk_of_bound {s : State} (h : s.snkBound = true) : (opened s).snk = [] := by
  rw [opened_of_bound h]

/-! Counting and coding. -/

/-- R231: the state in which the first four stages leave the tree and the codes of the source. -/
def planted (w : State) (a : Arena) (q : Queue) (code : CodeTable) : State :=
  { w with
    ft := some (countsOf w.src), totalChars := BitVec.ofNat 32 w.src.length,
    nDistinct := BitVec.ofNat 9 (distinctOf w.src), srcPos := w.src.length,
    arena := some a, pq := some q, root := BitVec.ofNat 10 (a.nodes.length - 1),
    rootValid := true, code := some code, result := .ok, done := true }

/-- The tree and the codes of a source, and that the counting and coding stages leave them, whatever
state they start from. -/
structure Plants (src : List Byte) (a : Arena) (q : Queue) (code : CodeTable) : Prop where
  codes : Codes src (finalsOf a) code
  stages : ∀ w is, SourceServes w → w.src = src →
    issueAll (.ftCount :: .tbLeaves :: .tbBuild :: .cgGen :: is) w =
      issueAll is (planted w a q code)

theorem exists_plants {src : List Byte} (hpos : 1 ≤ src.length)
    (hmax : src.length ≤ Config.maxInput) : ∃ a q code, Plants src a q code := by
  obtain ⟨a, q, code, hcodes, hstages⟩ := exists_codes hmax hpos
  refine ⟨a, q, code, hcodes, fun w is hserves hsrc => ?_⟩
  subst hsrc
  rw [issueAll_cons_of_ok (ftCountCountsSource w hserves hpos hmax) rfl, hstages _ _ rfl rfl]
  rfl

/-- The files' head and payload for a source's bytes. -/
def headOf (src : List Byte) (nodes : List FinalNode) : List Byte :=
  fileHead src.length nodes

def payloadOf (src : List Byte) (code : CodeTable) : List Byte :=
  packed (src.flatMap (tableGet code))

/-! Where packing stops on a sink that is too small (44_bit_packer_unpacker.md R191, R192). -/

/-- With room for `g` bytes the packing of the codes stops in the byte `p - 1` of the source, whose
code fills one byte more, or after the last one, with the last partial byte. -/
def PackStops (code : CodeTable) (src : List Byte) (g p : Nat) : Prop :=
  1 ≤ p ∧ p ≤ src.length ∧ ((src.take (p - 1)).flatMap (tableGet code)).length < 8 * (g + 1) ∧
    (8 * (g + 1) ≤ ((src.take p).flatMap (tableGet code)).length ∨
      p = src.length ∧ 8 * g < (src.flatMap (tableGet code)).length ∧
        (src.flatMap (tableGet code)).length < 8 * (g + 1))

theorem exists_packStops {code : CodeTable} {src : List Byte} {g : Nat}
    (h : 8 * g < (src.flatMap (tableGet code)).length) : ∃ p, PackStops code src g p := by
  have hne : 1 ≤ src.length := by
    rcases src with _ | ⟨b, src⟩
    · simp at h
    · simp
  by_cases hfull : 8 * (g + 1) ≤ (src.flatMap (tableGet code)).length
  · have hex : ∃ p, 8 * (g + 1) ≤ ((src.take p).flatMap (tableGet code)).length :=
      ⟨src.length, by rwa [List.take_length]⟩
    have hpos : 1 ≤ Nat.find hex := by
      by_contra hzero
      have hspec := Nat.find_spec hex
      rw [show Nat.find hex = 0 by omega] at hspec
      simp at hspec
    exact ⟨Nat.find hex, hpos, Nat.find_min' hex (by rwa [List.take_length]),
      Nat.not_le.1 (Nat.find_min hex (by omega)), .inl (Nat.find_spec hex)⟩
  · have htake : ((src.take (src.length - 1)).flatMap (tableGet code)).length ≤
        (src.flatMap (tableGet code)).length :=
      (List.Sublist.flatMap (List.take_sublist _ _) _).length_le
    exact ⟨src.length, hne, le_rfl, by omega, .inr ⟨rfl, h, by omega⟩⟩

theorem exec_bpPack_of_packStops {w : State} {code : CodeTable} {g p : Nat}
    (hcode : w.code = some code) (hserves : SourceServes w)
    (hcoded : ∀ b ∈ w.src, tableGet code b ≠ []) (hg : sinkRoom w = some g)
    (h : PackStops code w.src g p) :
    exec .bpPack w = .next (failureEntry .fileAccessFailure { w with srcPos := p }) := by
  obtain ⟨hb, hf⟩ := hserves
  obtain ⟨hpos, hle, hlt, hstop⟩ := h
  refine (bpPackStreamFailures w code hcode).2.2 g p hb hg hpos hle
    (fun b hb => hcoded b (List.mem_of_mem_take hb)) hlt ?_
  rcases hstop with hfull | ⟨rfl, hgt, hlt'⟩
  · exact .inl ⟨hfull, allows_mono (by omega) hf⟩
  · exact .inr ⟨rfl, hgt, hlt', hf⟩

/-! Writing. -/

/-- A state from which the last stages can write the source's file. -/
structure ToWrite (w : State) (a : Arena) (code : CodeTable) : Prop where
  arena : w.arena = some a
  table : w.ft ≠ none
  rooted : w.rootValid = true
  root_last : w.root.toNat + 1 = a.nodes.length
  coding : w.code = some code
  serves : SourceServes w
  count : w.totalChars.toNat = w.src.length
  coded : ∀ b ∈ w.src, tableGet code b ≠ []

/-- The state after the head has been written. -/
def headed (w : State) (a : Arena) : State :=
  { w with
    treeSize := BitVec.ofNat 16 a.nodes.length, snk := w.snk ++ headOf w.src (finalsOf a),
    result := .ok, done := true }

section
variable {w : State} {a : Arena} {code : CodeTable} (h : ToWrite w a code)
include h

/-- R211: the head does not fit. -/
theorem ToWrite.issueAll_of_no_head
    (hhead : ¬ SinkTakes (headOf w.src (finalsOf a)).length w) (is : List Instr) :
    issueAll (.serWrite :: is) w = .next (failureEntry .fileAccessFailure
      { w with treeSize := BitVec.ofNat 16 a.nodes.length }) := by
  refine issueAll_cons_of_failed (serWriteSinkFailure w a h.arena h.table h.rooted h.root_last ?_)
    (by simp)
  rwa [h.count]

theorem ToWrite.issueAll_of_head (hhead : SinkTakes (headOf w.src (finalsOf a)).length w)
    (is : List Instr) : issueAll (.serWrite :: is) w = issueAll is (headed w a) := by
  have hwrite := serWriteWritesHeaderAndTree w a h.arena h.table h.rooted h.root_last
  rw [h.count] at hwrite
  exact issueAll_cons_of_ok (hwrite hhead) rfl

/-- R191: the payload does not fit behind the head. -/
theorem ToWrite.issueAll_of_packStops {g p : Nat} (hg : sinkRoom (headed w a) = some g)
    (hp : PackStops code w.src g p) (is : List Instr) :
    issueAll (.bpPack :: is) (headed w a) =
      .next (failureEntry .fileAccessFailure { headed w a with srcPos := p }) :=
  issueAll_cons_of_failed
    (exec_bpPack_of_packStops (w := headed w a) h.coding h.serves h.coded hg hp) (by simp)

/-- R191, R236: the payload fits, and the session is dropped. -/
theorem ToWrite.issueAll_of_room
    (hall : SinkTakes (headOf w.src (finalsOf a) ++ payloadOf w.src code).length w) :
    issueAll [.bpPack, .release] (headed w a) = .next { headed w a with
      ft := none, arena := none, pq := none, rootValid := false, code := none, ftree := none,
      snk := w.snk ++ (headOf w.src (finalsOf a) ++ payloadOf w.src code),
      srcPos := w.src.length } := by
  have hpack := bpPackAppendsPayload (headed w a) code h.coding h.serves h.coded
    ⟨hall.1, by simpa [headed, payloadOf, Nat.add_assoc] using hall.2⟩
  rw [issueAll_cons_of_ok hpack rfl, issueAll_cons_of_ok (exec_release_eq _) rfl,
    ← List.append_assoc]
  rfl

end

/-! The ends of `COMPRESS` on a source that can be counted. -/

section
variable {s : State} {a : Arena} {q : Queue} {code : CodeTable} (h : Plants s.src a q code)
  (hserves : SourceServes s)
include h hserves

theorem Plants.exec_compress : exec .compress s =
    issueAll [.serWrite, .bpPack, .release] (planted (opened s) a q code) := by
  rw [exec_compress_eq_issueAll, compressStages]
  exact h.stages (opened s) _ (by simpa [SourceServes] using hserves) (by simp)

variable (hpos : 1 ≤ s.src.length) (hmax : s.src.length ≤ Config.maxInput)
include hpos hmax

theorem Plants.toWrite : ToWrite (planted (opened s) a q code) a code := by
  obtain ⟨hlen, hlen'⟩ := h.codes.length_le hmax hpos
  rw [length_finalsOf] at hlen hlen'
  refine {
    arena := rfl, table := Option.some_ne_none _, rooted := rfl, coding := rfl
    root_last := ?_, serves := by simpa [planted] using hserves, count := ?_, coded := ?_ }
  · change (BitVec.ofNat 10 (a.nodes.length - 1)).toNat + 1 = _
    rw [BitVec.toNat_ofNat, Nat.mod_eq_of_lt (by omega)]
    omega
  · exact Nat.mod_eq_of_lt (by simpa [Config.maxInput, Nat.lt_succ_iff] using hmax)
  · intro b hb
    exact (leafSym_eq_some.1 (h.codes.paths b (by simpa [planted] using hb))).1

/-- R211. -/
theorem Plants.exec_compress_of_no_head
    (hhead : ¬ (s.snkBound = true ∧
      allows s.snkFailAt (headOf s.src (finalsOf a)).length = true)) :
    exec .compress s = .next (failureEntry .fileAccessFailure { planted (opened s) a q code with
      treeSize := BitVec.ofNat 16 a.nodes.length }) := by
  rw [h.exec_compress hserves]
  refine (h.toWrite hserves hpos hmax).issueAll_of_no_head (fun ⟨hb, hroom⟩ => hhead ?_) _
  simp only [planted, opened_snkBound, opened_snkFailAt, opened_src] at hb hroom
  exact ⟨hb, by simpa [opened_snk_of_bound hb] using hroom⟩

variable (hb : s.snkBound = true)
include hb

theorem Plants.exec_compress_of_head
    (hhead : allows s.snkFailAt (headOf s.src (finalsOf a)).length = true) :
    exec .compress s = issueAll [.bpPack, .release] (headed (planted (opened s) a q code) a) := by
  rw [h.exec_compress hserves]
  refine (h.toWrite hserves hpos hmax).issueAll_of_head ⟨by simpa [planted] using hb, ?_⟩ _
  simpa [planted, opened_snk_of_bound hb] using hhead

/-- R191. -/
theorem Plants.exec_compress_of_packStops {f p : Nat} (hf : s.snkFailAt = some f)
    (hhead : (headOf s.src (finalsOf a)).length ≤ f)
    (hp : PackStops code s.src (f - (headOf s.src (finalsOf a)).length) p) :
    exec .compress s = .next (failureEntry .fileAccessFailure
      { headed (planted (opened s) a q code) a with srcPos := p }) := by
  rw [h.exec_compress_of_head hserves hpos hmax hb (by simpa [hf, allows] using hhead)]
  refine (h.toWrite hserves hpos hmax).issueAll_of_packStops ?_ (by simpa [planted] using hp) _
  simp [sinkRoom, headed, planted, hb, hf, opened_snk_of_bound hb]

/-- R230, R236. -/
theorem Plants.exec_compress_of_room
    (hall : allows s.snkFailAt (headOf s.src (finalsOf a) ++ payloadOf s.src code).length = true) :
    exec .compress s = .next { s with
      ft := none, arena := none, pq := none, rootValid := false, code := none, ftree := none,
      totalChars := BitVec.ofNat 32 s.src.length, treeSize := BitVec.ofNat 16 a.nodes.length,
      nDistinct := BitVec.ofNat 9 (distinctOf s.src),
      root := BitVec.ofNat 10 (a.nodes.length - 1), srcPos := s.src.length,
      snk := headOf s.src (finalsOf a) ++ payloadOf s.src code,
      result := .ok, done := true } := by
  rw [h.exec_compress_of_head hserves hpos hmax hb (allows_mono (by simp) hall),
    (h.toWrite hserves hpos hmax).issueAll_of_room
      ⟨by simpa [planted] using hb, by simpa [planted, opened_snk_of_bound hb] using hall⟩,
    opened_of_bound hb]
  rfl

end

/-- Settles O51: the first four stages leave the codes of the source, and the last two write its
file. -/
theorem compressWritesFile : Obligations.CompressWritesFile := by
  intro s hserves hpos hmax hb
  obtain ⟨a, q, code, h⟩ := exists_plants hpos hmax
  refine ⟨finalsOf a, code, fun hall => ?_, h.codes.size, h.codes.syms, h.codes.leaves,
    h.codes.inner, h.codes.paths⟩
  rw [length_finalsOf]
  exact h.exec_compress_of_room hserves hpos hmax hb hall

/-! The outcome as the streams decide it (R239, R240). -/

/-- The failures of `COMPRESS` (R240). -/
def CompressKind (k : ErrorKind) (src : List Byte) : Prop :=
  k = .fileAccessFailure ∨ (k = .invalidResource ∧ src = []) ∨
    (k = .invalidParameter ∧ Config.maxInput < src.length)

/-- The same source, bindings and failure points. -/
structure SameStreams (s u : State) : Prop where
  srcBound : u.srcBound = s.srcBound
  src : u.src = s.src
  srcFailAt : u.srcFailAt = s.srcFailAt
  snkBound : u.snkBound = s.snkBound
  snkFailAt : u.snkFailAt = s.snkFailAt

theorem SameStreams.refl (s : State) : SameStreams s s := ⟨rfl, rfl, rfl, rfl, rfl⟩

/-- Agreement of two outcomes in what R239 names, the sink where `s` has one bound. -/
structure Agree (s t v : State) : Prop where
  result : v.result = t.result
  srcPos : v.srcPos = t.srcPos
  snk : s.snkBound = true → v.snk = t.snk
  regs : t.result = .ok → v.totalChars = t.totalChars ∧ v.treeSize = t.treeSize ∧
    v.nDistinct = t.nDistinct ∧ v.root = t.root

/-- Either `FT_COUNT` can count the source, or it fails in a way that the source decides. -/
theorem ftCount_outcome (s : State) :
    (SourceServes s ∧ 1 ≤ s.src.length ∧ s.src.length ≤ Config.maxInput) ∨
    ∃ k p, CompressKind k s.src ∧ ∀ u, u.srcBound = s.srcBound → u.src = s.src →
      u.srcFailAt = s.srcFailAt → exec .ftCount u =
        .next (failureEntry k { u with srcPos := p }) := by
  rcases hb : s.srcBound with _ | _
  · exact .inr ⟨_, 0, .inl rfl, fun u hu _ _ => (ftCountFailures u).1 hu⟩
  by_cases hstop : ∃ f, s.srcFailAt = some f ∧ f ≤ s.src.length ∧ f ≤ Config.maxInput
  · obtain ⟨f, hf, hle, hle'⟩ := hstop
    exact .inr ⟨_, f, .inl rfl, fun u hu hsrc hfail =>
      (ftCountFailures u).2.1 f hu (hfail.trans hf) (hsrc ▸ hle) hle'⟩
  have hreads {n : Nat} (hn : n ≤ s.src.length + 1) (hn' : n ≤ Config.maxInput + 1) :
      allows s.srcFailAt n = true := by
    rcases hf : s.srcFailAt with _ | f
    · rfl
    · by_contra hno
      exact hstop ⟨f, hf, by simp [allows] at hno; omega, by simp [allows] at hno; omega⟩
  rcases Nat.lt_or_ge Config.maxInput s.src.length with hlong | hmax
  · exact .inr ⟨_, _, .inr (.inr ⟨rfl, hlong⟩), fun u hu hsrc hfail =>
      (ftCountFailures u).2.2.2 hu (hfail ▸ hreads (by omega) le_rfl) (hsrc ▸ hlong)⟩
  rcases Nat.eq_zero_or_pos s.src.length with hzero | hpos
  · have hnil := List.eq_nil_of_length_eq_zero hzero
    exact .inr ⟨_, 0, .inr (.inl ⟨rfl, hnil⟩), fun u hu hsrc hfail =>
      (ftCountFailures u).2.2.1 ⟨hu, hsrc ▸ hfail ▸ hreads le_rfl (by omega)⟩ (hsrc.trans hnil)⟩
  · exact .inl ⟨⟨hb, hreads le_rfl (by omega)⟩, hpos, hmax⟩

theorem exists_of_not_allows {failAt : Option Nat} {m n : Nat} (h : allows failAt m = true)
    (h' : ¬ allows failAt n = true) : ∃ f, failAt = some f ∧ m ≤ f ∧ f < n := by
  rcases failAt with _ | f
  · exact absurd rfl h'
  · exact ⟨f, rfl, of_decide_eq_true h, by simpa [allows] using h'⟩

/-- R239, R240, R242: `COMPRESS` answers, and alike from every state with the same streams. -/
def StreamsDecide (s : State) : Prop :=
  ∃ t, exec .compress s = .next t ∧
    (t.result = .ok ∨ ∃ k, CompressKind k s.src ∧ t.result = .error k) ∧
    ∀ u, SameStreams s u → ∃ v, exec .compress u = .next v ∧ Agree s t v

/-- A failure empties a bound sink (R257), so its kind and the position are all there is to know. -/
theorem streamsDecide_of_failure {s : State} {k : ErrorKind} (p : Nat) (hk : CompressKind k s.src)
    (h : ∀ u, SameStreams s u → ∃ w, exec .compress u = .next (failureEntry k w) ∧
      w.snkBound = u.snkBound ∧ w.srcPos = p) : StreamsDecide s := by
  obtain ⟨w, hw, hb, hp⟩ := h s (.refl s)
  refine ⟨_, hw, .inr ⟨k, hk, failureEntry_result k w⟩, fun u hu => ?_⟩
  obtain ⟨w', hw', hb', hp'⟩ := h u hu
  refine ⟨_, hw', by simp, by simp [hp, hp'], fun hbound => ?_, by simp⟩
  rw [failureEntry_snk, failureEntry_snk, if_pos (hb.trans hbound),
    if_pos (hb'.trans (hu.snkBound.trans hbound))]

/-- A source that can be counted: the head does not fit, or all fits, or the payload does not. -/
theorem streamsDecide_of_plants {s : State} {a : Arena} {q : Queue} {code : CodeTable}
    (h : Plants s.src a q code) (hserves : SourceServes s) (hpos : 1 ≤ s.src.length)
    (hmax : s.src.length ≤ Config.maxInput) : StreamsDecide s := by
  have hplants {u : State} (hu : SameStreams s u) : Plants u.src a q code ∧ SourceServes u ∧
      1 ≤ u.src.length ∧ u.src.length ≤ Config.maxInput := by
    rw [SourceServes, hu.srcBound, hu.srcFailAt, hu.src]
    exact ⟨h, hserves, hpos, hmax⟩
  by_cases hhead : s.snkBound = true ∧
      allows s.snkFailAt (headOf s.src (finalsOf a)).length = true
  swap
  · refine streamsDecide_of_failure s.src.length (.inl rfl) fun u hu => ?_
    obtain ⟨h, hserves, hpos, hmax⟩ := hplants hu
    exact ⟨_, h.exec_compress_of_no_head hserves hpos hmax
      (by rwa [hu.snkBound, hu.snkFailAt, hu.src]), opened_snkBound u, by simp [planted, hu.src]⟩
  obtain ⟨hb, hhead⟩ := hhead
  by_cases hall : allows s.snkFailAt
      (headOf s.src (finalsOf a) ++ payloadOf s.src code).length = true
  · refine ⟨_, h.exec_compress_of_room hserves hpos hmax hb hall, .inl rfl, fun u hu => ?_⟩
    obtain ⟨h, hserves, hpos, hmax⟩ := hplants hu
    exact ⟨_, h.exec_compress_of_room hserves hpos hmax (hu.snkBound.trans hb)
      (by rwa [hu.snkFailAt, hu.src]), rfl, by simp [hu.src], by simp [hu.src], by simp [hu.src]⟩
  · obtain ⟨f, hf, hle, hlt⟩ := exists_of_not_allows hhead hall
    simp only [payloadOf, packed, List.length_append, List.length_map, List.length_range] at hlt
    obtain ⟨p, hp⟩ := exists_packStops (code := code) (src := s.src)
      (g := f - (headOf s.src (finalsOf a)).length) (by omega)
    refine streamsDecide_of_failure p (.inl rfl) fun u hu => ?_
    obtain ⟨h, hserves, hpos, hmax⟩ := hplants hu
    exact ⟨_, h.exec_compress_of_packStops hserves hpos hmax (hu.snkBound.trans hb)
      (hu.snkFailAt.trans hf) (by rwa [hu.src]) (by rwa [hu.src]), opened_snkBound u, rfl⟩

theorem streamsDecide (s : State) : StreamsDecide s := by
  rcases ftCount_outcome s with ⟨hserves, hpos, hmax⟩ | ⟨k, p, hk, hcount⟩
  · obtain ⟨a, q, code, h⟩ := exists_plants hpos hmax
    exact streamsDecide_of_plants h hserves hpos hmax
  · refine streamsDecide_of_failure p hk fun u hu => ⟨{ opened u with srcPos := p }, ?_,
      opened_snkBound u, rfl⟩
    rw [exec_compress_eq_issueAll, compressStages]
    exact issueAll_cons_of_failed (hcount _ (by simpa using hu.srcBound) (by simpa using hu.src)
      (by simpa using hu.srcFailAt)) (by simp)

/-- Settles O52: no stage behind the counting has a failure of its own but the sink's. -/
theorem compressFailureKinds : Obligations.CompressFailureKinds := by
  intro s
  obtain ⟨t, ht, hresult, -⟩ := streamsDecide s
  refine ⟨t, ht, hresult.imp_right ?_⟩
  rintro ⟨k, hk, hkind⟩
  rcases hk with rfl | ⟨rfl, hnil⟩ | ⟨rfl, hlong⟩
  · exact .inl hkind
  · exact .inr (.inl ⟨hkind, hnil⟩)
  · exact .inr (.inr ⟨hkind, hlong⟩)

/-- Settles O58: every outcome is one that the streams decide. -/
theorem compressForgetsThePast : Obligations.CompressForgetsThePast := by
  intro s u t hsb hsrc hsf hkb hkf ht
  obtain ⟨t', ht', -, hagree⟩ := streamsDecide s
  obtain rfl := Host.Outcome.next.inj (ht.symm.trans ht')
  obtain ⟨v, hv, h⟩ := hagree u ⟨hsb, hsrc, hsf, hkb, hkf⟩
  exact ⟨v, hv, h.result, h.srcPos, h.snk, h.regs⟩

/-- Settles O59: after a release on an empty sink the host's stages are the command's. -/
theorem compressIsItsStages : Obligations.CompressIsItsStages := by
  intro s hs
  obtain ⟨t, ht, -⟩ := streamsDecide s
  refine ⟨t, t, ht, ?_, rfl, rfl⟩
  rw [issueAll_release hs, ← ht, exec_compress_eq_issueAll, compressStages]

end Sys2Proof.Machine
end

section
/-! PROOFS. The round trip (46_top_level.md R237, R238, 30_encoding.md R106): a payload's bits begin
with the bits that were packed, the node array of a source loads, and the walks give its bytes back
(O55, O56, O57). -/

namespace Sys2Proof.Machine

/-! The bits of a payload (20_memory.md R71, 30_encoding.md R106). -/

theorem bitsMsbFirst_accOf (b₀ b₁ b₂ b₃ b₄ b₅ b₆ b₇ : Bool) :
    bitsMsbFirst (accOf [b₀, b₁, b₂, b₃, b₄, b₅, b₆, b₇]) = [b₀, b₁, b₂, b₃, b₄, b₅, b₆, b₇] := by
  revert b₀ b₁ b₂ b₃ b₄ b₅ b₆ b₇
  decide

theorem bitsMsbFirst_packedByte (bits : List Bool) (j : Nat) :
    bitsMsbFirst (packedByte bits j) = (List.range 8).map fun k => bits.getD (8 * j + k) false := by
  rw [packedByte_eq_accOf]
  exact bitsMsbFirst_accOf _ _ _ _ _ _ _ _

theorem bitString_map_packedByte (bits : List Bool) (n : Nat) :
    bitString ((List.range n).map (packedByte bits)) =
      (List.range (8 * n)).map fun k => bits.getD k false := by
  induction n with
  | zero => rfl
  | succ n ih =>
    rw [List.range_succ, List.map_append, bitString_append, ih, List.map_singleton, bitString_cons,
      bitsMsbFirst_packedByte, Nat.mul_succ, List.range_add, List.map_append, List.map_map]
    exact congrArg _ (List.append_nil _)

theorem map_getD_range (bits : List Bool) :
    (List.range bits.length).map (fun k => bits.getD k false) = bits := by
  refine List.ext_getElem (by simp) fun k hk _ => ?_
  rw [List.getElem_map, List.getElem_range, List.getD_eq_getElem]

/-- R106: the payload is the packed bits and padding. -/
theorem exists_bitString_packed (bits : List Bool) :
    ∃ pad, bitString (packed bits) = bits ++ pad := by
  have hlen : 8 * ((bits.length + 7) / 8) =
      bits.length + (8 * ((bits.length + 7) / 8) - bits.length) := by omega
  rw [packed, bitString_map_packedByte, hlen, List.range_add, List.map_append, map_getD_range]
  exact ⟨_, rfl⟩

/-! The node array of a source (45_serializer.md R218, R219). -/

theorem childInRange_noChild (t : Nat) : childInRange t Config.noChild = true :=
  childInRange_iff.2 (.inl (by decide))

theorem childInRange_of_lt {t : Nat} {c : ChildIdx} (h : c.toNat < t) (ht : t ≤ 511) :
    childInRange t c = true := by
  have hint : c.toInt = c.toNat := BitVec.toInt_eq_toNat_of_lt (by omega)
  exact childInRange_iff.2 (.inr (by omega))

theorem eq_noChild_of_isLeaf {n : FinalNode} (h : n.isLeaf = true) :
    n.left = Config.noChild ∧ n.right = Config.noChild := by
  simpa [FinalNode.isLeaf] using h

section
variable {src : List Byte} {nodes : List FinalNode} {code : CodeTable}
  (h : Codes src nodes code)
include h

theorem Codes.ftreeWf (hpos : 1 ≤ src.length) (hmax : src.length ≤ Config.maxInput) :
    FtreeWf nodes := by
  obtain ⟨hmin, hle⟩ := h.length_le hmax hpos
  refine ⟨hmin, hle, fun n hn => ?_⟩
  obtain ⟨i, hi, rfl⟩ := List.getElem_of_mem hn
  rcases Nat.lt_or_ge i (distinctOf src) with hleaf | hinner
  · obtain ⟨hl, hr⟩ := eq_noChild_of_isLeaf (h.leaves nodes[i] (List.mem_take_iff_getElem.2
      ⟨i, by omega, rfl⟩))
    rw [hl, hr]
    exact ⟨childInRange_noChild _, childInRange_noChild _⟩
  · obtain ⟨-, -, hl, hr⟩ := h.inner i nodes[i] hinner (List.getElem?_eq_getElem hi)
    refine ⟨childInRange_of_lt (hl.trans hi) hle, ?_⟩
    split at hr
    · rw [hr]
      exact childInRange_noChild _
    · exact childInRange_of_lt (hr.trans hi) hle

/-- R105: the walks along the codes give the source back. -/
theorem Codes.map_leafSym : (src.map (tableGet code)).map (leafSym nodes (nodes.length - 1)) =
    src.map some := by
  rw [List.map_map]
  exact List.map_congr_left h.paths

end

/-! `COMPRESS` on a sink without a failure point. -/

section
variable {s : State} (hserves : SourceServes s) (hmax : s.src.length ≤ Config.maxInput)
  (hb : s.snkBound = true) (hf : s.snkFailAt = none)
include hserves hmax hb hf

/-- R230: it leaves the file of a tree of the source. -/
theorem exists_file (hpos : 1 ≤ s.src.length) : ∃ nodes code t, Codes s.src nodes code ∧
    exec .compress s = .next t ∧ t.result = .ok ∧
      t.snk = fileHead s.src.length nodes ++ packed (s.src.flatMap (tableGet code)) := by
  obtain ⟨a, q, code, h⟩ := exists_plants hpos hmax
  exact ⟨finalsOf a, code, _, h.codes, h.exec_compress_of_room hserves hpos hmax hb
    (by rw [hf]; rfl), rfl, rfl⟩

end

/-- Settles O55: the node array loads, and the payload begins with the paths to the source's
bytes. -/
theorem decompressUndoesCompress : Obligations.DecompressUndoesCompress := by
  intro s hserves hpos hmax hb hf
  obtain ⟨nodes, code, t, h, ht, hok, hsnk⟩ := exists_file hserves hmax hb hf (by omega)
  refine ⟨t, ht, hok, fun u hub husrc hureads hukb hutakes => ?_⟩
  obtain ⟨pad, hpad⟩ := exists_bitString_packed (s.src.flatMap (tableGet code))
  rw [List.flatMap_def] at hsnk hpad
  refine ⟨_, decompressWritesSymbols u nodes _ (s.src.map (tableGet code)) s.src pad hub
    (husrc.trans hsnk) hpos (Nat.lt_succ_of_le hmax) (h.ftreeWf (by omega) hmax) h.map_leafSym hpad
    ?_ hukb hutakes, rfl, rfl⟩
  rwa [hsnk, List.length_append, length_fileHead, packed, List.length_map, List.length_range]
    at hureads

/-- Settles O56: the file's header has a count of 1, below the least that is read. -/
theorem oneByteFileIsRejected : Obligations.OneByteFileIsRejected := by
  intro s b hserves hsrc hb hf
  have hlen : s.src.length = 1 := by rw [hsrc, List.length_singleton]
  have hmax : s.src.length ≤ Config.maxInput := hlen.trans_le (by decide)
  obtain ⟨nodes, code, t, h, ht, hok, hsnk⟩ := exists_file hserves hmax hb hf hlen.ge
  refine ⟨t, ht, hok, fun u hub husrc hureads => ?_⟩
  obtain ⟨-, hle⟩ := h.length_le hmax hlen.ge
  rw [hlen, fileHead_eq, List.append_assoc] at hsnk
  have hread := (serReadChecksHeader (opened u) (by simpa using hub)).1 1 nodes.length _
    (by simpa using husrc.trans hsnk) (by omega) (by omega) (by simpa using hureads)
    (.inl (by omega))
  exact ⟨_, (exec_decompress_eq_issueAll u).trans (issueAll_cons_of_failed hread (by simp)),
    by simp⟩

/-! One byte value repeated (R238). -/

theorem mem_bytesOf {src : List Byte} {b : Byte} : b ∈ bytesOf src ↔ b ∈ src := by
  simp only [bytesOf, List.mem_filter, List.contains_iff_mem, and_iff_right_iff_imp]
  exact fun _ => List.mem_map.2 ⟨b.toNat, List.mem_range.2 b.isLt, by simp⟩

theorem length_bytesOf (src : List Byte) : (bytesOf src).length = distinctOf src := by
  rw [bytesOf, List.filter_map, List.length_map]
  rfl

theorem bytesOf_replicate {n : Nat} (hn : 1 ≤ n) (b : Byte) :
    bytesOf (List.replicate n b) = [b] := by
  refine List.perm_singleton.1 ((List.perm_ext_iff_of_nodup (nodup_bytesOf _)
    (List.nodup_singleton b)).2 fun c => ?_)
  rw [mem_bytesOf, List.mem_replicate, List.mem_singleton]
  exact and_iff_right (by omega)

/-- 42_tree_builder.md R168: the leaf and a root without a right child. -/
def oneLeafTree (b : Byte) : List FinalNode :=
  [⟨b, Config.noChild, Config.noChild⟩, ⟨0x00, 0x0000, Config.noChild⟩]

theorem fileHead_oneLeafTree (n : Nat) (b : Byte) : fileHead n (oneLeafTree b) =
    littleEndian 4 n ++ [0x02, 0x00] ++ [0x00, 0x00, 0x00, 0xFF, 0xFF] ++
      [b, 0xFF, 0xFF, 0xFF, 0xFF] := by
  have hsize : littleEndian 2 2 = [0x02, 0x00] := by decide
  have hnone : le16 Config.noChild = [0xFF, 0xFF] := by decide
  have hzero : le16 0#16 = [0x00, 0x00] := by decide
  have hrecords : (recordOrder (oneLeafTree b)).flatMap recordBytes =
      [0x00, 0x00, 0x00, 0xFF, 0xFF] ++ [b, 0xFF, 0xFF, 0xFF, 0xFF] := by
    simp [oneLeafTree, recordOrder, recordBytes, hnone, hzero]
  rw [fileHead_eq, hrecords, show (oneLeafTree b).length = 2 from rfl, hsize, ← List.append_assoc]

theorem Codes.eq_oneLeafTree {n : Nat} {b : Byte} {nodes : List FinalNode} {code : CodeTable}
    (h : Codes (List.replicate n b) nodes code) (hn : 1 ≤ n) : nodes = oneLeafTree b := by
  have hbytes := bytesOf_replicate hn b
  have hone : distinctOf (List.replicate n b) = 1 := by rw [← length_bytesOf, hbytes]; rfl
  obtain ⟨⟨sym, left, right⟩, ⟨sym', left', right'⟩, rfl⟩ :=
    List.length_eq_two.1 (h.size.trans (if_pos hone))
  have hsym := h.syms
  have hleaf := h.leaves
  have hinner := h.inner 1 _ hone.le rfl
  rw [hone] at hsym hleaf hinner
  obtain ⟨rfl, -, hleft, rfl⟩ := hinner
  obtain ⟨rfl, rfl⟩ := eq_noChild_of_isLeaf (hleaf _ (List.mem_singleton_self _))
  obtain rfl : sym = b := List.singleton_injective (hsym.trans hbytes)
  obtain rfl : left' = 0x0000 := BitVec.eq_of_toNat_eq (Nat.lt_one_iff.1 hleft)
  rfl

/-- The one path to a leaf is the step to the left. -/
theorem eq_of_leafSym_oneLeafTree {b c : Byte} {p : List Bool}
    (h : leafSym (oneLeafTree b) 1 p = some c) : p = [false] := by
  obtain ⟨hne, j, hj, -⟩ := leafSym_eq_some.1 h
  obtain ⟨step, p, rfl⟩ := List.exists_cons_of_ne_nil hne
  rw [reach_cons] at hj
  obtain ⟨k, hk, hj⟩ := Option.bind_eq_some_iff.1 hj
  cases step with
  | true => cases hk
  | false =>
    obtain rfl : 0 = k := Option.some.inj hk
    cases p with
    | nil => rfl
    | cons step p =>
      have hleaf : childAt (oneLeafTree b) 0 step = none := childAt_of_isLeaf rfl (by rfl)
      rw [reach_cons, hleaf] at hj
      cases hj

theorem packed_replicate_false (n : Nat) :
    packed (List.replicate n false) = List.replicate ((n + 7) / 8) 0x00 := by
  have hzero (j : Nat) : packedByte (List.replicate n false) j = 0x00 := by
    have hget (k : Nat) : (List.replicate n false).getD k false = false := by
      rw [List.getD_eq_getElem?_getD, List.getElem?_replicate]
      split <;> rfl
    simp only [packedByte_eq_accOf, hget]
    decide
  rw [packed, List.length_replicate, List.map_congr_left fun j _ => hzero j, List.map_const',
    List.length_range]

/-- Settles O57: the tree is one leaf and its root, and every code is the one step to the left. -/
theorem singleSymbolFile : Obligations.SingleSymbolFile := by
  intro s n b hserves hsrc hn hmax hb hf
  have hlen : s.src.length = n := by rw [hsrc, List.length_replicate]
  obtain ⟨nodes, code, t, h, ht, hok, hsnk⟩ := exists_file hserves (hlen ▸ hmax) hb hf (hlen ▸ hn)
  rw [hsrc] at h hsnk
  obtain rfl := h.eq_oneLeafTree hn
  have hcode := eq_of_leafSym_oneLeafTree (h.paths b (List.mem_replicate.2 ⟨by omega, rfl⟩))
  refine ⟨t, ht, hok, ?_⟩
  have hbits : (List.replicate n b).flatMap (tableGet code) = List.replicate n false := by
    rw [List.flatMap_replicate, hcode, List.flatten_replicate_singleton]
  rw [hsnk, hbits, packed_replicate_false, List.length_replicate, fileHead_oneLeafTree]

end Sys2Proof.Machine
end

section
/-! PROOFS. The exceptions (60_exceptions.md): the commands that miss a structure (O19), the error
kind that no rule raises (O13), and what a failure leaves (O12). -/

namespace Sys2Proof.Machine

/-! A missing structure (R251). -/

section
variable {s : State}

theorem tbLeavesBody_of_no_table (h : s.ft = none) :
    tbLeavesBody s = .raised .invalidArguments s := by
  simp only [tbLeavesBody, h]

theorem cgGenBody_of_no_root (h : s.arena = none ∨ s.rootValid = false) :
    cgGenBody s = .raised .invalidArguments s := by
  cases ha : s.arena with
  | none => simp only [cgGenBody, ha]
  | some a => simp only [cgGenBody, ha, h.resolve_left (by simp [ha]), if_true]

theorem bpPackBody_of_no_code (h : s.code = none) :
    bpPackBody s = .raised .invalidArguments s := by
  simp only [bpPackBody, h]

theorem serWriteBody_of_no_tree (h : s.ft = none ∨ s.arena = none ∨ s.rootValid = false) :
    serWriteBody s = .raised .invalidArguments s := by
  cases ha : s.arena with
  | none => simp only [serWriteBody, ha]
  | some a =>
    have hmissing : s.ft.isNone = true ∨ s.rootValid = false := by simpa [ha] using h
    simp only [serWriteBody, ha, if_pos hmissing]

/-- R213: both tests before the first put have the same failure. -/
theorem serWriteBody_of_root_not_last {a : Arena} (ha : s.arena = some a)
    (h : s.root.toNat + 1 ≠ a.nodes.length) : serWriteBody s = .raised .invalidArguments s := by
  simp only [serWriteBody, ha, if_pos h, ite_self]

theorem buUnpackBody_of_no_tree (h : s.ftree = none) :
    buUnpackBody s = .raised .invalidArguments s := by
  simp only [buUnpackBody, h]

end

/-- Settles O19: each body raises at its first tests, before it has written anything. -/
theorem missingStructureFails : Obligations.MissingStructureFails := fun _ =>
  ⟨fun h => exec_of_body_raised (i := .tbLeaves) (tbLeavesBody_of_no_table h),
    fun h => exec_of_body_raised (i := .cgGen) (cgGenBody_of_no_root h),
    fun h => exec_of_body_raised (i := .bpPack) (bpPackBody_of_no_code h),
    fun h => exec_of_body_raised (i := .serWrite) (serWriteBody_of_no_tree h),
    fun _ ha h => exec_of_body_raised (i := .serWrite) (serWriteBody_of_root_not_last ha h),
    fun h => exec_of_body_raised (i := .buUnpack) (buUnpackBody_of_no_tree h)⟩

/-! The kind that no rule raises (R253). -/

/-- Where the pseudocode raises, it is a kind that some rule raises. -/
def Res.NeverUnknown {α : Type} (m : Res α) : Prop :=
  m.Meets (fun _ _ => True) fun k _ => k ≠ .unknownError

section
variable {α β : Type} {s : State}

@[simp] theorem Res.neverUnknown_ok (a : α) : (Res.ok a s).NeverUnknown := trivial

@[simp] theorem Res.neverUnknown_raised {k : ErrorKind} :
    (Res.raised k s : Res α).NeverUnknown ↔ k ≠ .unknownError := Iff.rfl

@[simp] theorem Res.neverUnknown_stuck (r : Fault) : (Res.stuck r : Res α).NeverUnknown := trivial

theorem Res.NeverUnknown.bind {m : Res α} {f : α → State → Res β} (hm : m.NeverUnknown)
    (hf : ∀ a u, (f a u).NeverUnknown) : (m.bind f).NeverUnknown :=
  Res.Meets.bind hm fun a u _ => hf a u

theorem Res.NeverUnknown.andThen {m : Res Unit} {g : State → Res Unit} (hm : m.NeverUnknown)
    (hg : ∀ u, (g u).NeverUnknown) : (m.andThen g).NeverUnknown :=
  hm.bind fun _ => hg

/-- The failures of reading and walking are all raised by rules. -/
theorem Res.Meets.neverUnknown {m : Res α} {P : α → State → Prop}
    (hm : m.Meets P fun k _ => ReadKind k) : m.NeverUnknown :=
  hm.imp (fun _ _ _ => trivial) (by rintro k - (rfl | rfl | rfl) <;> decide)

end

theorem snkPut_neverUnknown (b : Byte) (s : State) : (snkPut b s).NeverUnknown :=
  (snkPut_putCount b s).neverUnknown

theorem snkPutAll_neverUnknown (bs : List Byte) (s : State) : (snkPutAll bs s).NeverUnknown := by
  rcases snkPutAll_cases bs s with h | ⟨more, h⟩ <;> simp [h]

theorem heapInsert_neverUnknown (e : HeapEntry) (s : State) : (heapInsert e s).NeverUnknown := by
  rcases heapInsert_cases e s with ⟨-, h⟩ | ⟨q, -, ⟨-, h⟩ | ⟨-, h⟩⟩ <;> simp [h]

theorem heapExtract2_neverUnknown (s : State) : (heapExtract2 s).NeverUnknown := by
  rcases heapExtract2_cases s with ⟨-, h⟩ | ⟨q, -, ⟨-, h⟩ | ⟨a, b, g, g', -, -, -, h⟩⟩ <;> simp [h]

theorem arenaAppend_neverUnknown (n : WorkNode) (s : State) : (arenaAppend n s).NeverUnknown := by
  rcases arenaAppend_cases n s with ⟨a, c, -, -, h⟩ | ⟨-, h⟩ | ⟨a, -, -, -, h⟩ <;> simp [h]

theorem insertLeaves_neverUnknown (nodes : List WorkNode) (is : List Nat) (s : State) :
    (insertLeaves nodes is s).NeverUnknown := by
  induction is generalizing s with
  | nil => simp [insertLeaves]
  | cons i is ih =>
    unfold insertLeaves
    split
    · simp
    · exact (heapInsert_neverUnknown _ s).andThen ih

theorem mergeStep_neverUnknown (s : State) : (mergeStep s).NeverUnknown := by
  refine (heapExtract2_neverUnknown s).bind fun p u => ?_
  split
  · simp
  · split
    · simp
    · exact (arenaAppend_neverUnknown _ u).andThen (heapInsert_neverUnknown _ ·)

theorem buildLoop_neverUnknown (n : Nat) (s : State) : (buildLoop n s).NeverUnknown := by
  induction n generalizing s with
  | zero => simp [buildLoop]
  | succ n ih =>
    unfold buildLoop
    split
    · exact (mergeStep_neverUnknown s).andThen ih
    · simp

theorem settleRoot_neverUnknown (s : State) : (settleRoot s).NeverUnknown := by
  unfold settleRoot
  split
  · split
    · simp
    · split
      · simp
      · split
        · exact (arenaAppend_neverUnknown _ s).andThen fun _ => Res.neverUnknown_ok _
        · simp
  · simp
  · simp

/-! The commands' bodies. -/

theorem ftCountBody_neverUnknown (s : State) : (ftCountBody s).NeverUnknown := by
  refine Res.NeverUnknown.bind ?_ fun p u => ?_
  · rcases countLoop_cases (s.src.length + 1) (Vector.replicate 256 0) 0 (srcRewind s) (by simp)
      with ⟨ft, t, p, -, h⟩ | ⟨k, p, rfl | rfl, h⟩ <;> rw [h] <;> simp
  · split <;> simp

theorem pqInitBody_neverUnknown (cap : BitVec 16) (s : State) :
    (pqInitBody cap s).NeverUnknown := by
  unfold pqInitBody
  split <;> simp

theorem pqInsertBody_neverUnknown (idx : BitVec 16) (freq : Word32) (s : State) :
    (pqInsertBody idx freq s).NeverUnknown := by
  unfold pqInsertBody
  split
  · simp
  · exact heapInsert_neverUnknown _ s

theorem pqExtract2Body_neverUnknown (s : State) : (pqExtract2Body s).NeverUnknown :=
  (heapExtract2_neverUnknown s).bind fun _ _ => Res.neverUnknown_ok _

theorem tbLeavesBody_neverUnknown (s : State) : (tbLeavesBody s).NeverUnknown := by
  unfold tbLeavesBody
  split
  · simp
  · exact (insertLeaves_neverUnknown _ _ _).andThen fun _ => Res.neverUnknown_ok _

theorem tbBuildBody_neverUnknown (s : State) : (tbBuildBody s).NeverUnknown := by
  unfold tbBuildBody
  split
  · simp
  · split
    · simp
    · exact (buildLoop_neverUnknown _ s).andThen settleRoot_neverUnknown

theorem cgGenBody_neverUnknown (s : State) : (cgGenBody s).NeverUnknown := by
  unfold cgGenBody
  split
  · simp
  · split
    · simp
    · split <;> simp

theorem bpPackBody_neverUnknown (s : State) : (bpPackBody s).NeverUnknown := by
  unfold bpPackBody
  split
  · simp
  · rename_i code _
    refine Res.NeverUnknown.bind ?_ fun p u => ?_
    · rcases packLoop_cases code (s.src.length + 1) 0 0 (srcRewind s) (by simp) with
        ⟨p, pos, more, h⟩ | ⟨k, pos, more, rfl | rfl, h⟩ <;> rw [h] <;> simp
    · unfold putPartial
      split
      · exact snkPut_neverUnknown _ u
      · simp

theorem buUnpackBody_neverUnknown (s : State) : (buUnpackBody s).NeverUnknown := by
  by_cases h : s.ftree = none
  · simp [buUnpackBody_of_no_tree h]
  · exact (buUnpackBody_putCount h).neverUnknown

theorem serWriteBody_neverUnknown (s : State) : (serWriteBody s).NeverUnknown := by
  unfold serWriteBody
  split
  · simp
  · split
    · simp
    · split
      · simp
      · exact snkPutAll_neverUnknown _ _

theorem compressBody_neverUnknown (s : State) : (compressBody s).NeverUnknown :=
  ((((((ftCountBody_neverUnknown _).andThen tbLeavesBody_neverUnknown).andThen
    tbBuildBody_neverUnknown).andThen cgGenBody_neverUnknown).andThen
    serWriteBody_neverUnknown).andThen bpPackBody_neverUnknown).andThen
    fun _ => Res.neverUnknown_ok _

theorem commandBody_neverUnknown (i : Instr) (s : State) : (commandBody i s).NeverUnknown := by
  cases i with
  | compress => exact compressBody_neverUnknown s
  | decompress => exact (decompressBody_outcomes s).neverUnknown
  | ftCount => exact ftCountBody_neverUnknown s
  | pqInit cap => exact pqInitBody_neverUnknown cap s
  | pqInsert idx freq => exact pqInsertBody_neverUnknown idx freq s
  | pqExtract2 => exact pqExtract2Body_neverUnknown s
  | tbLeaves => exact tbLeavesBody_neverUnknown s
  | tbBuild => exact tbBuildBody_neverUnknown s
  | cgGen => exact cgGenBody_neverUnknown s
  | bpPack => exact bpPackBody_neverUnknown s
  | buUnpack => exact buUnpackBody_neverUnknown s
  | serWrite => exact serWriteBody_neverUnknown s
  | serRead => exact (serReadBody_ready s).neverUnknown
  | release => exact Res.neverUnknown_ok ()

/-- Settles O13: no body raises the kind, and the decoder rejects for two other reasons. -/
theorem unknownErrorNeverReturned : Obligations.UnknownErrorNeverReturned := by
  refine ⟨rfl, fun i s t h => ?_, fun w h => ?_⟩
  · rcases exec_of_meets h (commandBody_neverUnknown i s) with ⟨u, -, rfl⟩ | ⟨k, u, hk, rfl⟩
    · simp
    · simpa using hk
  · rcases decode_reject h with hk | hk <;> cases hk

/-! What a failure leaves (R257, R259). -/

/-- R257: an error result is the failure entry's. -/
theorem eq_failureEntry_of_error {i : Instr} {s t : State} {k : ErrorKind}
    (h : exec i s = .next t) (hk : t.result = .error k) : ∃ u, t = failureEntry k u := by
  rw [exec_eq_finish] at h
  rcases finish_eq_next.1 h with ⟨u, -, rfl⟩ | ⟨k', u, -, rfl⟩
  · cases hk
  · rw [failureEntry_result] at hk
    cases hk
    exact ⟨u, rfl⟩

theorem failureEntry_sessionEmpty (k : ErrorKind) (s : State) :
    SessionEmpty (failureEntry k s) := by
  simp [SessionEmpty, ftValid, arenaValid, pqInit, codeValid, ftreeValid]

/-- No sink is bound, and `out` is what the sink's bytes are. -/
structure SinkUnbound (out : List Byte) (s : State) : Prop where
  unbound : s.snkBound = false
  bytes : s.snk = out

section
variable {out : List Byte} {s : State}

/-- 20_memory.md R66: the truncation passes over an unbound sink. -/
theorem SinkUnbound.snkTruncate (h : SinkUnbound out s) : SinkUnbound out (snkTruncate s) := by
  rwa [Machine.snkTruncate, if_neg (by simp [h.unbound])]

theorem SinkUnbound.releaseAll (h : SinkUnbound out s) : SinkUnbound out (releaseAll s) :=
  ⟨h.unbound, h.bytes⟩

theorem SinkUnbound.failureEntry (h : SinkUnbound out s) (k : ErrorKind) :
    SinkUnbound out (failureEntry k s) :=
  ⟨h.releaseAll.snkTruncate.unbound, h.releaseAll.snkTruncate.bytes⟩

theorem SinkUnbound.srcNext (h : SinkUnbound out s) {b : Byte} {t : State}
    (hn : srcNext s = .byte b t) : SinkUnbound out t := by
  obtain ⟨-, -, -, rfl⟩ := srcNext_byte hn
  exact ⟨h.unbound, h.bytes⟩

/-- 20_memory.md R65: no put to an unbound sink succeeds. -/
theorem SinkUnbound.snkPut_eq (h : SinkUnbound out s) (b : Byte) :
    snkPut b s = .raised .fileAccessFailure s := by
  rw [snkPut, if_pos h.unbound]

theorem SinkUnbound.snkPutAll (h : SinkUnbound out s) (bs : List Byte) :
    (snkPutAll bs s).Leaves (SinkUnbound out) := by
  cases bs with
  | nil => exact h
  | cons b bs =>
    rw [Machine.snkPutAll, h.snkPut_eq]
    exact h

theorem SinkUnbound.packBits (h : SinkUnbound out s) (bits : List Bool) (acc : Byte) (m : Nat) :
    (packBits bits acc m s).Leaves (SinkUnbound out) := by
  induction bits generalizing acc m with
  | nil => exact h
  | cons b bs ih =>
    rw [Machine.packBits]
    split
    · rw [h.snkPut_eq]
      exact h
    · exact ih _ _

theorem SinkUnbound.packLoop (h : SinkUnbound out s) (code : CodeTable) (n : Nat) (acc : Byte)
    (m : Nat) : (packLoop code n acc m s).Leaves (SinkUnbound out) := by
  induction n generalizing acc m s with
  | zero => trivial
  | succ n ih =>
    unfold Machine.packLoop
    split
    · exact h
    · exact h
    · rename_i hn
      split
      · exact h.srcNext hn
      · exact ((h.srcNext hn).packBits _ _ _).bind fun p u hu => ih hu p.1 p.2

theorem SinkUnbound.walkBits (h : SinkUnbound out s) (nodeAt : Nat → FinalNode) (rt total : Nat)
    (bits : List Bool) (cur emitted : Nat) :
    (walkBits nodeAt rt total bits cur emitted s).Leaves (SinkUnbound out) := by
  induction bits generalizing cur emitted with
  | nil => exact h
  | cons bit bits ih =>
    rw [Machine.walkBits]
    generalize (if bit = true then (nodeAt cur).right else (nodeAt cur).left) = nxt
    split
    · exact h
    · split
      · rw [h.snkPut_eq]
        exact h
      · exact ih _ _

theorem SinkUnbound.unpackLoop (h : SinkUnbound out s) (nodeAt : Nat → FinalNode)
    (rt total n cur emitted : Nat) :
    (unpackLoop nodeAt rt total n cur emitted s).Leaves (SinkUnbound out) := by
  induction n generalizing cur emitted s with
  | zero => trivial
  | succ n ih =>
    unfold Machine.unpackLoop
    split
    · split
      · exact h
      · exact h
      · rename_i hn
        exact ((h.srcNext hn).walkBits _ _ _ _ _ _).bind fun p u hu => ih hu p.1 p.2
    · exact h

theorem SinkUnbound.bpPackBody (h : SinkUnbound out s) :
    (bpPackBody s).Leaves (SinkUnbound out) := by
  unfold Machine.bpPackBody
  split
  · exact h
  · have hrewound : SinkUnbound out (srcRewind s) := ⟨h.unbound, h.bytes⟩
    refine (hrewound.packLoop _ _ _ _).bind fun p u hu => ?_
    unfold putPartial
    split
    · rw [hu.snkPut_eq]
      exact hu
    · exact hu

theorem SinkUnbound.buUnpackBody (h : SinkUnbound out s) :
    (buUnpackBody s).Leaves (SinkUnbound out) := by
  unfold Machine.buUnpackBody
  split
  · exact h
  · exact h.unpackLoop _ _ _ _ _ _

theorem SinkUnbound.serWriteBody (h : SinkUnbound out s) :
    (serWriteBody s).Leaves (SinkUnbound out) := by
  unfold Machine.serWriteBody
  split
  · exact h
  · split
    · exact h
    · split
      · exact h
      · have hsized (n : BitVec 16) : SinkUnbound out { s with treeSize := n } :=
          ⟨h.unbound, h.bytes⟩
        exact (hsized _).snkPutAll _

/-- 20_memory.md R65: three component commands put to the sink, and the others leave it alone. -/
theorem SinkUnbound.component (h : SinkUnbound out s) (i : Instr) (hc : i ≠ .compress)
    (hd : i ≠ .decompress) : (commandBody i s).Leaves (SinkUnbound out) := by
  cases hi : appendsToSink i with
  | false =>
    refine (component_storage i s hc hd).imp fun t ht => ⟨?_, (ht.sink hi).trans h.bytes⟩
    have hhost := ht.host
    simp only [hostSide, Prod.mk.injEq] at hhost
    obtain ⟨-, ⟨hbound, -⟩, -⟩ := hhost
    exact hbound.trans h.unbound
  | true =>
    cases i with
    | bpPack => exact h.bpPackBody
    | buUnpack => exact h.buUnpackBody
    | serWrite => exact h.serWriteBody
    | _ => cases hi

/-- 20_memory.md R65, R66: with no sink bound no command writes a byte, however it ends. -/
theorem SinkUnbound.exec (h : SinkUnbound out s) {i : Instr} {t : State}
    (he : exec i s = .next t) : SinkUnbound out t :=
  exec_of_leaves he
    (commandBody_keeps i h h.releaseAll.snkTruncate fun j _ hc hd hu => hu.component j hc hd)
    (fun _ hu => ⟨hu.unbound, hu.bytes⟩) fun k _ hu => hu.failureEntry k

end

/-- Settles O12: the failure entry empties the session and a bound sink, and an unbound one was
never written. -/
theorem failedCommandLeavesNothing : Obligations.FailedCommandLeavesNothing := by
  intro i s t k h hk
  obtain ⟨-, -, -, hbound, -⟩ := commandsKeepTheHostsSide i s t h
  have unwritten (hb : s.snkBound = false) : t.snk = s.snk := (SinkUnbound.exec ⟨hb, rfl⟩ h).bytes
  obtain ⟨u, rfl⟩ := eq_failureEntry_of_error h hk
  refine ⟨failureEntry_sessionEmpty k u, failureEntry_done k u, fun hb => ?_, unwritten⟩
  rw [failureEntry_snk, if_pos ((failureEntry_snkBound k u).symm.trans (hbound.trans hb))]

end Sys2Proof.Machine
end
